-- ==== Sys2Proof/Word.lean ====
section
/-! DEFINITION. The widths of the block's values (00_scope.md R5 and R7: every value is an unsigned integer of its stated width). -/

namespace Sys2Proof

/-- An interval count N and a calibration threshold: `TICK_W` = 16 bits (R5). -/
abbrev Tick := BitVec 16

/-- A host register, RDATA and WDATA: `REG_W` = 16 bits (R5). -/
abbrev RegWord := BitVec 16

/-- A host register index: `IDX_W` = 8 bits (R5). -/
abbrev RegIdx := BitVec 8

/-- A byte of the frame buffer or of the published string. -/
abbrev Byte := BitVec 8

/-- A word of the capture port or of the host port (R70, R71). -/
abbrev PortBits := BitVec 32

/-- The internal bit strobe `BV, B`, format INT (R72): `BV` is bit 1 and `B` is bit 0. -/
abbrev Strobe := BitVec 2

/-- The frame buffer `buf[0..7]`: `BUF_BYTES` = 8 bytes (R5, R20, R27). -/
abbrev FrameBuf := Vector Byte 8

/-- The published string `out_str[0..10]`: `STR_LEN` = 11 characters (R5, R20, R52). -/
abbrev OutStr := Vector Byte 11

end Sys2Proof
end

