-- ==== Sys2Proof/Config.lean ====
section
/-! DEFINITION. The implementation parameters of 00_scope.md R5 that are constants of the block. The four calibration thresholds are no constants but registers (R6): they stand in State. -/

namespace Sys2Proof.Config

/-- `SYNC_RUN`: the consecutive 1-bits that confirm sync (R5, R122). -/
abbrev syncRun : BitVec 4 := 12

/-- `SYNC_FORCE_POS`: the value a sync detection forces into `pos` (R5, R122; 90_conflicts.md C1). Log entry 11. -/
abbrev syncForcePos : BitVec 7 := 77

/-- `DATA_BITS` less one: the last position whose bit is shifted into the buffer (R5, R123). -/
abbrev lastDataPos : BitVec 7 := 63

/-- `FRAME_BITS`: the position count that completes a frame window (R5, R125). -/
abbrev frameBits : BitVec 7 := 80

/-- `BASE_ADDR`: OPEN (R5, R58; 92_eei_decisions.md D10), so a constant of which nothing is known.
The block sees register indices only, and no rule of it reads this value. Log entry 12. -/
opaque baseAddr : Nat

end Sys2Proof.Config
end

