-- ==== Sys2Proof/Syntax.lean ====
section
/-! DEFINITION. The operations of the block: one constructor for each row of spec/opcode_table.json (30_encoding.md R75), the words that carry them, and what one step performs (R73). -/

namespace Sys2Proof

/-- The operations of R75. PUBLISH has no encoding of its own (R150) and is no row of the table. -/
inductive Instr where
  /-- CAP_IDLE (R100): no transition this step. -/
  | capIdle
  /-- INTERVAL N (R101): one signal transition, `n` ticks after the previous one. -/
  | interval (n : Tick)
  /-- PUSH_BIT B (R120): one decoded bit enters the frame assembler. Internal: only INTERVAL produces it (R72). -/
  | pushBit (b : Bool)
  /-- HOST_IDLE (R170): no host access this step. -/
  | hostIdle
  /-- REG_READ IDX (R171). -/
  | regRead (idx : RegIdx)
  /-- REG_WRITE IDX, WDATA (R172). -/
  | regWrite (idx : RegIdx) (v : RegWord)
  /-- HOST_RSVD (R173, R76): the reserved host operation. -/
  | hostRsvd
  /-- RESET (R220). -/
  | reset
  deriving DecidableEq, Repr

/-- The formats of R70 to R72 and R75, one for each place an operation stands. -/
inductive Port where
  | cap
  | host
  | int
  | rst
  deriving DecidableEq, Repr

/-- One word of one format (R80: each format has one fixed length). -/
inductive PortWord where
  | cap (w : PortBits)
  | host (w : PortBits)
  | int (w : Strobe)
  | rst (w : BitVec 1)
  deriving DecidableEq, Repr

/-- The words the block's input ports carry in one step (10_state.md R33). -/
structure StepWords where
  rst : BitVec 1
  cap : PortBits
  host : PortBits
  deriving DecidableEq, Repr

/-- What one step performs (R73): RESET alone, or one capture operation and one host operation. -/
inductive StepOps where
  | reset
  | ports (cap host : Instr)
  deriving DecidableEq, Repr

end Sys2Proof
end

