-- ==== Sys2Proof/WellFormed.lean ====
section
/-! DEFINITION. Which operations may stand where. An operand has exactly its field's width and every value of it is legal (10_state.md R43, 30_encoding.md R78, R79), so an operation by itself is always well formed; what can be ill formed is the pair of operations of one step (R73): each port carries operations of its own format only. -/

namespace Sys2Proof

/-- The format of an operation (R75, column format). -/
def Instr.port : Instr → Port
  | .capIdle => .cap
  | .interval _ => .cap
  | .pushBit _ => .int
  | .hostIdle => .host
  | .regRead _ => .host
  | .regWrite _ _ => .host
  | .hostRsvd => .host
  | .reset => .rst

/-- The operations of a step are well formed (R73): the capture operation has format CAP (so it is no
PUSH_BIT, which has no port, R72), and the host operation has format HOST. -/
def StepOps.wf : StepOps → Bool
  | .reset => true
  | .ports cap host => cap.port == .cap && host.port == .host

end Sys2Proof
end

