-- ==== Sys2Proof/Decode.lean ====
section
/-! DEFINITION. The decoder of 30_encoding.md R70 to R75, total on every word of every format, and after it the encoder written from the same rules. -/

namespace Sys2Proof

/-- Why a word carries no operation. -/
inductive DecodeReject where
  /-- An INT word with BV = 0: "no bit this operation" (R72). -/
  | noBit
  /-- An RST word with RST = 0: no reset this step (R73). -/
  | noReset
  deriving DecidableEq, Repr

/-- The capture-port word (R70, R73): VALID is bit 31, N is bits 15:0. Bits 30:16 are ignored (R77). -/
def decodeCap (w : PortBits) : Instr :=
  if w.extractLsb' 31 1 = 1#1 then .interval (w.extractLsb' 0 16) else .capIdle

/-- The host-port word (R71, R73): OP is bits 31:30, IDX bits 23:16, WDATA bits 15:0. Bits 29:24 are
ignored (R77). REG_READ uses IDX (R71, R171); log entry 10. -/
def decodeHost (w : PortBits) : Instr :=
  let op := w.extractLsb' 30 2
  if op = 0b00#2 then .hostIdle
  else if op = 0b01#2 then .regRead (w.extractLsb' 16 8)
  else if op = 0b10#2 then .regWrite (w.extractLsb' 16 8) (w.extractLsb' 0 16)
  else .hostRsvd

/-- The bit an INT word carries (R72): B if BV = 1, none if BV = 0. -/
def strobeBit (w : Strobe) : Option Bool :=
  if w.getLsbD 1 then some (w.getLsbD 0) else none

/-- The operation a word of some format stands for (R73), or why it stands for none. -/
def decode : PortWord → Except DecodeReject Instr
  | .cap w => .ok (decodeCap w)
  | .host w => .ok (decodeHost w)
  | .int w =>
    match strobeBit w with
    | some b => .ok (.pushBit b)
    | none => .error .noBit
  | .rst w => if w = 1#1 then .ok .reset else .error .noReset

/-- The decode of one step (R73): RST = 1 is RESET and nothing else; otherwise both ports act. -/
def decodeStep (w : StepWords) : StepOps :=
  if w.rst = 1#1 then .reset else .ports (decodeCap w.cap) (decodeHost w.host)

/-- A CAP word from its fields (R70), reserved bits zero; R81's `0x80000000 | n`. -/
def capWord (valid : BitVec 1) (n : Tick) : PortBits := valid.setWidth 32 <<< 31 ||| n.setWidth 32

/-- A HOST word from its fields (R71), reserved bits zero; R81's `0x80000000 | idx << 16 | v`. -/
def hostWord (op : BitVec 2) (idx : RegIdx) (v : RegWord) : PortBits :=
  op.setWidth 32 <<< 30 ||| idx.setWidth 32 <<< 16 ||| v.setWidth 32

/-- The INT word of an emitted bit (R72): BV = 1, B = the bit. -/
def strobeOf (b : Bool) : Strobe := 1#1 ++ BitVec.ofBool b

/-- The INT word of no bit (R72): BV = 0. -/
def strobeNone : Strobe := 0b00#2

/-- The word of an operation (R75), each reserved or ignored bit zero (R77: they "should be zero"). Log entry 18. -/
def encode : Instr → PortWord
  | .capIdle => .cap (capWord 0 0)
  | .interval n => .cap (capWord 1 n)
  | .pushBit b => .int (strobeOf b)
  | .hostIdle => .host (hostWord 0b00 0 0)
  | .regRead idx => .host (hostWord 0b01 idx 0)
  | .regWrite idx v => .host (hostWord 0b10 idx v)
  | .hostRsvd => .host (hostWord 0b11 0 0)
  | .reset => .rst 1

/-- The capture word that presents an operation (R81); an operation of another format leaves the port idle. -/
def capBitsOf (i : Instr) : PortBits :=
  match encode i with
  | .cap w => w
  | _ => 0

/-- The host word that presents an operation (R81); an operation of another format leaves the port idle. -/
def hostBitsOf (i : Instr) : PortBits :=
  match encode i with
  | .host w => w
  | _ => 0

/-- The port words that present the operations of one step (R81). Under RESET both words are ignored and
are written as zero. -/
def encodeStep : StepOps → StepWords
  | .reset => { rst := 1, cap := 0, host := 0 }
  | .ports cap host => { rst := 0, cap := capBitsOf cap, host := hostBitsOf host }

/-- Which port a word of spec/opcode_table.json stands on, from its length and its bits alone. Log entry 7.
A CAP and a HOST word have the same length, and every pattern is a word of both: a 32-bit word whose bits
30:16 are zero (CAP's reserved field, R70) is taken as a capture word, any other as a host word. In whole
bytes an RST word and an INT word have the same length too: 1 is RST = 1, and 2 and 3 are INT with BV = 1. -/
def tableWord (nbits w : Nat) : Option PortWord :=
  if nbits = 32 then
    if w < 2 ^ 32 then
      if w / 2 ^ 16 % 2 ^ 15 = 0 then some (.cap (BitVec.ofNat 32 w)) else some (.host (BitVec.ofNat 32 w))
    else none
  else if w = 1 ∧ (nbits = 8 ∨ nbits = 1) then some (.rst 1)
  else if (w = 2 ∨ w = 3) ∧ (nbits = 8 ∨ nbits = 2) then some (.int (BitVec.ofNat 2 w))
  else none

/-- The instruction the decoder reads from a word numbered as spec/opcode_table.json numbers it. -/
def decodeTableWord (nbits w : Nat) : Option Instr :=
  match tableWord nbits w with
  | none => none
  | some p =>
    match decode p with
    | .ok i => some i
    | .error _ => none

end Sys2Proof
end

