-- ==== Sys2Proof/Machine/State.lean ====
section
/-! DEFINITION. The state of the block: the fields of 10_state.md R20, the two outputs of R34 that are no field of it, and the model's own record of the step and of the words to come. Every field is plain data. -/

namespace Sys2Proof.Machine

/-- The class of an interval (40_demodulator.md R102). -/
inductive IntervalClass where
  | half
  | full
  | invalid
  deriving DecidableEq, Repr

/-- The causes of a recovery (60_exceptions.md R201). They are recovered inside the step that detects them
and stop nothing (R200), so they are no `Fault`. -/
inductive Cause where
  /-- Code 1: an interval outside both calibrated windows. -/
  | signalTimingFault
  /-- Code 2: a full-cell interval while a half-bit is pending. -/
  | alignmentFault
  /-- Code 3: 80 bits elapsed without a confirmed sync. -/
  | frameBoundaryMismatch
  deriving DecidableEq, Repr

/-- The codes of R201. A label is not a port value. -/
def Cause.code : Cause → Nat
  | .signalTimingFault => 1
  | .alignmentFault => 2
  | .frameBoundaryMismatch => 3

/-- What the model records as having happened inside a step (R201: "a model may record it in an event history"). -/
inductive Event where
  /-- A recovery was raised (R201). -/
  | fault (cause : Cause)
  /-- A sync detection (41_frame_assembler.md R122). -/
  | sync
  /-- A completion with sync: PUBLISH ran (R125, 42_bcd_extractor.md R150). -/
  | publish
  deriving DecidableEq, Repr

/-- Why the machine stops with a fault: never. "No fault stops the block" (60_exceptions.md R200), so the
type has no constructor and no step can answer one. Log entry 16. -/
inductive Fault where
  deriving DecidableEq, Repr

/-- Why an instruction is refused. -/
inductive Refusal where
  /-- Raised by exec for an operation that has no meaning yet. Safe: the machine stops instead of going on.
  Every operation has its meaning, so no arm of exec raises it. -/
  | notModelled (mnemonic : String)
  deriving DecidableEq, Repr

/-- The output ports (10_state.md R34). -/
structure OutputPins where
  edgeSel : Bool
  capRestart : Bool
  frameReady : Bool
  rdata : RegWord
  deriving DecidableEq, Repr

/-- The state of the block between two steps. -/
@[ext]
structure State where
  /-- `one_min`, register ONE_MIN (R20, R21, R36). -/
  oneMin : Tick
  /-- `one_max`, register ONE_MAX (R20, R21, R37). -/
  oneMax : Tick
  /-- `zero_min`, register ZERO_MIN (R20, R21, R38). -/
  zeroMin : Tick
  /-- `zero_max`, register ZERO_MAX (R20, R21, R39). -/
  zeroMax : Tick
  /-- `edge_sel`, the capture edge asked for (R20, R22). -/
  edgeSel : Bool
  /-- `pending`, the pending half-bit flag (R20, R23). -/
  pending : Bool
  /-- `ones`, the consecutive 1-bit counter (R20, R24). -/
  ones : BitVec 4
  /-- `pos`, the bit-position counter (R20, R25). -/
  pos : BitVec 7
  /-- `sync_seen` (R20, R26). -/
  syncSeen : Bool
  /-- `buf[0..7]`, the frame buffer (R20, R27). -/
  buf : FrameBuf
  /-- `frame_ready`, STATUS.FRAME_READY (R20, R28). -/
  frameReady : Bool
  /-- `out_df`, STATUS.DROP_FRAME (R20, R29). -/
  outDf : Bool
  /-- `out_str[0..10]`, TC_CHAR0 to TC_CHAR10 (R20, R29). -/
  outStr : OutStr
  /-- Output CAP_RESTART in the step just taken (R34). Log entry 3. -/
  capRestart : Bool
  /-- Output RDATA in the step just taken (R34). Log entry 3. -/
  rdata : RegWord
  /-- The model's own: what happened in the step just taken, oldest first. Log entry 4. -/
  events : List Event
  /-- The model's own: the port words the outside world presents in the steps to come, the next step's
  first. Log entries 1 and 2. -/
  inputs : List StepWords
  deriving DecidableEq, Repr

/-- The state after reset: the values of 10_state.md R44, and the outputs of a reset step (70_reset_and_hazards.md
R220). The model's own fields are empty. -/
def State.reset : State where
  oneMin := 0xFFFF
  oneMax := 0x0000
  zeroMin := 0xFFFF
  zeroMax := 0x0000
  edgeSel := false
  pending := false
  ones := 0
  pos := 0
  syncSeen := false
  buf := #v[0, 0, 0, 0, 0, 0, 0, 0]
  frameReady := false
  outDf := false
  outStr := #v[0, 0, 0, 0, 0, 0, 0, 0, 0, 0, 0]
  capRestart := false
  rdata := 0
  events := []
  inputs := []

/-! One update for each field: `s.f <- v` of 00_scope.md R8. -/

def State.setOneMin (s : State) (v : Tick) : State := { s with oneMin := v }
def State.setOneMax (s : State) (v : Tick) : State := { s with oneMax := v }
def State.setZeroMin (s : State) (v : Tick) : State := { s with zeroMin := v }
def State.setZeroMax (s : State) (v : Tick) : State := { s with zeroMax := v }
def State.setEdgeSel (s : State) (v : Bool) : State := { s with edgeSel := v }
def State.setPending (s : State) (v : Bool) : State := { s with pending := v }
def State.setOnes (s : State) (v : BitVec 4) : State := { s with ones := v }
def State.setPos (s : State) (v : BitVec 7) : State := { s with pos := v }
def State.setSyncSeen (s : State) (v : Bool) : State := { s with syncSeen := v }
def State.setBuf (s : State) (v : FrameBuf) : State := { s with buf := v }
def State.setFrameReady (s : State) (v : Bool) : State := { s with frameReady := v }
def State.setOutDf (s : State) (v : Bool) : State := { s with outDf := v }
def State.setOutStr (s : State) (v : OutStr) : State := { s with outStr := v }
def State.setCapRestart (s : State) (v : Bool) : State := { s with capRestart := v }
def State.setRdata (s : State) (v : RegWord) : State := { s with rdata := v }
def State.setEvents (s : State) (v : List Event) : State := { s with events := v }
def State.setInputs (s : State) (v : List StepWords) : State := { s with inputs := v }

end Sys2Proof.Machine
end

