-- ==== Sys2Proof/Machine/Operands.lean ====
section
/-! DEFINITION. The operands of the operations: the class of an interval, the fields of the frame buffer and their characters, and the host registers by index. -/

namespace Sys2Proof.Machine

/-! ## Intervals (40_demodulator.md R102) -/

/-- N lies in a calibration window: both comparisons are unsigned and inclusive, so a window whose min
exceeds its max holds no N (R102). -/
def inWindow (lo hi n : Tick) : Bool := lo.ule n && n.ule hi

/-- `classify(N)`: the half-cell window is tested first (R102). -/
def State.classify (s : State) (n : Tick) : IntervalClass :=
  if inWindow s.oneMin s.oneMax n then .half
  else if inWindow s.zeroMin s.zeroMax n then .full
  else .invalid

/-! ## The frame buffer (20_memory.md R50, 42_bcd_extractor.md R151 to R162) -/

/-- `V(buf)`, the buffer as a 64-bit value, byte 7 most significant (00_scope.md R8, R50). -/
def bufValue (b : FrameBuf) : BitVec 64 :=
  b[7] ++ b[6] ++ b[5] ++ b[4] ++ b[3] ++ b[2] ++ b[1] ++ b[0]

/-- Units of frames: `buf[0][3:0]` (R151). -/
def unitsOfFrames (b : FrameBuf) : BitVec 4 := b[0].extractLsb' 0 4

/-- Tens of frames: `buf[1][1:0]` (R152). -/
def tensOfFrames (b : FrameBuf) : BitVec 2 := b[1].extractLsb' 0 2

/-- The drop-frame flag: `buf[1][2]` (R153). -/
def dropFrame (b : FrameBuf) : Bool := b[1].getLsbD 2

/-- Units of seconds: `buf[2][3:0]` (R154). -/
def unitsOfSeconds (b : FrameBuf) : BitVec 4 := b[2].extractLsb' 0 4

/-- Tens of seconds: `buf[3][2:0]` (R155). -/
def tensOfSeconds (b : FrameBuf) : BitVec 3 := b[3].extractLsb' 0 3

/-- Units of minutes: `buf[4][3:0]` (R156). -/
def unitsOfMinutes (b : FrameBuf) : BitVec 4 := b[4].extractLsb' 0 4

/-- Tens of minutes: `buf[5][2:0]` (R157). -/
def tensOfMinutes (b : FrameBuf) : BitVec 3 := b[5].extractLsb' 0 3

/-- Units of hours: `buf[6][3:0]` (R158). -/
def unitsOfHours (b : FrameBuf) : BitVec 4 := b[6].extractLsb' 0 4

/-- Tens of hours: `buf[7][1:0]` (R159). -/
def tensOfHours (b : FrameBuf) : BitVec 2 := b[7].extractLsb' 0 2

/-- `digit(v) = 0x30 + v`, with no check of the value (R160). -/
def digit {w : Nat} (v : BitVec w) : Byte := 0x30#8 + v.setWidth 8

/-- The character `:` (R10, R161). -/
def colon : Byte := 0x3A

/-- The separator before the frames field (R162). -/
def separator (df : Bool) : Byte := if df then 0x3B else 0x3A

/-- The published string of a buffer (R161). -/
def formatFrame (b : FrameBuf) : OutStr :=
  #v[digit (tensOfHours b), digit (unitsOfHours b), colon,
     digit (tensOfMinutes b), digit (unitsOfMinutes b), colon,
     digit (tensOfSeconds b), digit (unitsOfSeconds b), separator (dropFrame b),
     digit (tensOfFrames b), digit (unitsOfFrames b)]

/-! ## Host registers (10_state.md R35 to R41) -/

/-- Index of ONE_MIN (R36). -/
abbrev idxOneMin : RegIdx := 0x00

/-- Index of ONE_MAX (R37). -/
abbrev idxOneMax : RegIdx := 0x01

/-- Index of ZERO_MIN (R38). -/
abbrev idxZeroMin : RegIdx := 0x02

/-- Index of ZERO_MAX (R39). -/
abbrev idxZeroMax : RegIdx := 0x03

/-- Index of STATUS (R40). -/
abbrev idxStatus : RegIdx := 0x04

/-- Index of TC_CHARn (R41). -/
def idxTcChar (n : Fin 11) : RegIdx := 0x10#8 + BitVec.ofNat 8 n.val

/-- The n of which an index is TC_CHARn: 0x10 to 0x1A (R41). -/
def tcCharOf (idx : RegIdx) : Option (Fin 11) :=
  if h : 0x10 ≤ idx.toNat ∧ idx.toNat ≤ 0x1A then some ⟨idx.toNat - 0x10, by omega⟩ else none

/-- STATUS as read: bit 0 FRAME_READY, bit 1 DROP_FRAME, the rest 0 (R40). -/
def State.statusWord (s : State) : RegWord :=
  (BitVec.ofBool s.outDf ++ BitVec.ofBool s.frameReady).setWidth 16

/-- The value of a host read (R171; `MemRead(idx, 2)` of R8). A reserved index reads 0 (R35, R78). -/
def State.readReg (s : State) (idx : RegIdx) : RegWord :=
  if idx = idxOneMin then s.oneMin
  else if idx = idxOneMax then s.oneMax
  else if idx = idxZeroMin then s.zeroMin
  else if idx = idxZeroMax then s.zeroMax
  else if idx = idxStatus then s.statusWord
  else
    match tcCharOf idx with
    | some n => s.outStr[n].setWidth 16
    | none => 0

end Sys2Proof.Machine
end

