-- ==== Sys2Proof/Machine/Flags.lean ====
section
/-! DEFINITION. The one-bit flags: the consume request of a host write and the frame-ready flag after a step. -/

namespace Sys2Proof.Machine

/-- A write to STATUS with bit 0 = 1 requests the clear of `frame_ready` (43_host_interface.md R175);
bits 15:1 are ignored (R172). -/
def clearsReady (idx : RegIdx) (v : RegWord) : Bool := idx == idxStatus && v.getLsbD 0

/-- `frame_ready` after a host write of its own: `s0.frame_ready AND NOT clear_ready` (R177). -/
def readyAfterWrite (ready : Bool) (idx : RegIdx) (v : RegWord) : Bool := ready && !clearsReady idx v

/-- `frame_ready` after a step: the set wins (R177). `setByCore` is 1 iff the step's INTERVAL published;
`afterHost` is what the host operation leaves of the old flag. -/
def readyAfterStep (setByCore afterHost : Bool) : Bool := setByCore || afterHost

end Sys2Proof.Machine
end

