-- ==== Sys2Proof/Machine/Ops.lean ====
section
/-! DEFINITION. The shared operations: recoveries, the buffer shift, PUBLISH, PUSH_BIT's sub-steps, the demodulator, host writes, and the join of the two sides of a step. -/

namespace Sys2Proof.Machine

/-! ## Events and recoveries -/

/-- Record an event of the running step. Log entry 4. -/
def State.record (s : State) (e : Event) : State := s.setEvents (s.events ++ [e])

/-- `raise Recover(cause)` (00_scope.md R8): the one operation for all three faults (60_exceptions.md R202, R203).
It is never a trap: nothing is saved, and there is no return from it (R210, R211). -/
def State.recover (s : State) (cause : Cause) : State :=
  match cause with
  | .signalTimingFault => ((s.setPos 0).setPending false).record (.fault .signalTimingFault)
  | .alignmentFault => ((s.setPos 0).setPending false).record (.fault .alignmentFault)
  | .frameBoundaryMismatch => s.record (.fault .frameBoundaryMismatch)

/-! ## The frame assembler -/

/-- A byte of the buffer after a shift: bit 0 of the next byte enters at bit 7 (20_memory.md R50). -/
def shiftByte (incoming : Bool) (b : Byte) : Byte := BitVec.ofBool incoming ++ b.extractLsb' 1 7

/-- The buffer after a shift, in R123's byte form. -/
def shiftBuf (bit : Bool) (b : FrameBuf) : FrameBuf :=
  #v[shiftByte (b[1].getLsbD 0) b[0], shiftByte (b[2].getLsbD 0) b[1],
     shiftByte (b[3].getLsbD 0) b[2], shiftByte (b[4].getLsbD 0) b[3],
     shiftByte (b[5].getLsbD 0) b[4], shiftByte (b[6].getLsbD 0) b[5],
     shiftByte (b[7].getLsbD 0) b[6], shiftByte bit b[7]]

/-- PUBLISH (42_bcd_extractor.md R150): latch string and drop-frame flag. -/
def State.publish (s : State) : State :=
  (s.setOutStr (formatFrame s.buf)).setOutDf (dropFrame s.buf)

/-- Sync tracking and sync detection (41_frame_assembler.md R121, R122). `force` is SYNC_FORCE_POS. -/
def State.trackSync (s : State) (force : BitVec 7) (bit : Bool) : State :=
  if bit then
    if s.ones + 1 = Config.syncRun then
      (((s.setOnes 0).setSyncSeen true).setPos force).record .sync
    else s.setOnes (s.ones + 1)
  else s.setOnes 0

/-- Shift (R123): only while `pos` is in the data region. -/
def State.shiftIn (s : State) (bit : Bool) : State :=
  if s.pos ≤ Config.lastDataPos then s.setBuf (shiftBuf bit s.buf) else s

/-- Count (R124). -/
def State.countBit (s : State) : State := s.setPos (s.pos + 1)

/-- Completion (R125): publish if sync was seen, otherwise FRAME_BOUNDARY_MISMATCH. -/
def State.complete (s : State) : State :=
  if s.pos = Config.frameBits then
    if s.syncSeen then
      ((((s.setPos 0).setSyncSeen false).setFrameReady true).publish).record .publish
    else (s.setPos 0).recover .frameBoundaryMismatch
  else s

/-- PUSH_BIT with the parameter SYNC_FORCE_POS as an argument (R120; R121 to R125 in the order of D40). -/
def State.pushBitAt (s : State) (force : BitVec 7) (bit : Bool) : State :=
  (((s.trackSync force bit).shiftIn bit).countBit).complete

/-- PUSH_BIT, and `emit` (R120, 00_scope.md R8), with SYNC_FORCE_POS = 77. -/
def State.pushBit (s : State) (bit : Bool) : State := s.pushBitAt Config.syncForcePos bit

/-! ## The demodulator -/

/-- What every INTERVAL does first (40_demodulator.md R103). -/
def State.startInterval (s : State) : State := (s.setEdgeSel (!s.edgeSel)).setCapRestart true

/-- The demodulator's part of INTERVAL (R101): the state it leaves and the strobe it hands to the frame
assembler (30_encoding.md R72). -/
def State.demodulate (s : State) (n : Tick) : State × Strobe :=
  let t := s.startInterval
  match s.classify n with
  | .half =>
    if s.pending then (t.setPending false, strobeOf true) else (t.setPending true, strobeNone)
  | .full =>
    if s.pending then (t.recover .alignmentFault, strobeNone) else (t, strobeOf false)
  | .invalid => (t.recover .signalTimingFault, strobeNone)

/-- The frame assembler takes a strobe: BV = 1 performs PUSH_BIT (30_encoding.md R73). -/
def State.takeStrobe (s : State) (w : Strobe) : State :=
  match strobeBit w with
  | some b => s.pushBit b
  | none => s

/-- INTERVAL N (R101). -/
def State.interval (s : State) (n : Tick) : State :=
  (s.demodulate n).1.takeStrobe (s.demodulate n).2

/-! ## The host side -/

/-- A host write (43_host_interface.md R172, R175; `MemWrite(idx, 2, v)` of R8): a threshold, the consume
of `frame_ready`, or nothing. -/
def State.writeReg (s : State) (idx : RegIdx) (v : RegWord) : State :=
  if idx = idxOneMin then s.setOneMin v
  else if idx = idxOneMax then s.setOneMax v
  else if idx = idxZeroMin then s.setZeroMin v
  else if idx = idxZeroMax then s.setZeroMax v
  else s.setFrameReady (readyAfterWrite s.frameReady idx v)

/-! ## One step (R176) -/

/-- The words the ports carry in the next step; with none waiting both ports are idle (30_encoding.md R81). Log entry 1. -/
def State.nextWords (s : State) : StepWords :=
  match s.inputs with
  | [] => { rst := 0, cap := 0, host := 0 }
  | w :: _ => w

/-- The state at the start of a step: the step's words are taken, and its record of events is empty. -/
def State.beginStep (s : State) : State := (s.setInputs s.inputs.tail).setEvents []

/-- The state after a step from what its two sides leave (R176): the core's fields from the capture side,
the thresholds and RDATA from the host side, `frame_ready` by R177. Log entry 6. -/
def State.joinSides (capSide hostSide : State) : State :=
  (((((capSide.setOneMin hostSide.oneMin).setOneMax hostSide.oneMax).setZeroMin hostSide.zeroMin).setZeroMax
    hostSide.zeroMax).setRdata hostSide.rdata).setFrameReady
      (readyAfterStep capSide.frameReady hostSide.frameReady)

/-- The outcome of a step from the outcomes of its two operations. -/
def joinOutcomes : Host.Outcome State Fault Refusal → Host.Outcome State Fault Refusal →
    Host.Outcome State Fault Refusal
  | .next c, .next h => .next (State.joinSides c h)
  | .fault r, _ => .fault r
  | .refused r, _ => .refused r
  | .next _, .fault r => .fault r
  | .next _, .refused r => .refused r

/-- The outputs in the step just taken (R34, R178). -/
def State.outputs (s : State) : OutputPins where
  edgeSel := s.edgeSel
  capRestart := s.capRestart
  frameReady := s.frameReady
  rdata := s.rdata

/-! ## Placing one operation for the next step (log entries 2, 7, 8) -/

/-- Present words before those that wait. -/
def State.present (s : State) (w : StepWords) : State := s.setInputs (w :: s.inputs)

/-- Make N = ZERO_MIN a full cell, changing the thresholds only where it is not one already. -/
def State.withFullCell (s : State) : State :=
  if s.classify s.zeroMin = .full then s
  else ((s.setOneMin 0xFFFF).setOneMax 0).setZeroMax
    (if s.zeroMin.ule s.zeroMax then s.zeroMax else s.zeroMin)

/-- Present the INTERVAL inside which PUSH_BIT of a bit runs: the second half-cell of a 1-bit, or the full
cell of a 0-bit. PUSH_BIT has no port of its own (R72). -/
def State.presentBit (s : State) (bit : Bool) : State :=
  if bit then
    let t := (s.setPending true).setOneMax (if s.oneMin.ule s.oneMax then s.oneMax else s.oneMin)
    t.present { rst := 0, cap := capWord 1 t.oneMin, host := 0 }
  else
    let t := (s.setPending false).withFullCell
    t.present { rst := 0, cap := capWord 1 t.zeroMin, host := 0 }

/-- Present one word of the opcode table, the other inputs idle. -/
def State.presentWord (s : State) (p : PortWord) : State :=
  match p with
  | .cap w => s.present { rst := 0, cap := w, host := 0 }
  | .host w => s.present { rst := 0, cap := 0, host := w }
  | .rst w => s.present { rst := w, cap := 0, host := 0 }
  | .int w =>
    match strobeBit w with
    | some b => s.presentBit b
    | none => s.present { rst := 0, cap := 0, host := 0 }

end Sys2Proof.Machine
end

