-- ==== Sys2Proof/Machine/Assembler.lean ====
section
/-! DEFINITION. The internal operation PUSH_BIT (41_frame_assembler.md). -/

namespace Sys2Proof.Machine

/-- PUSH_BIT B (R120). -/
def execPushBit (b : Bool) (s : State) : Host.Outcome State Fault Refusal := .next (s.pushBit b)

end Sys2Proof.Machine
end

