-- ==== Sys2Proof/Machine/Demodulator.lean ====
section
/-! DEFINITION. The capture-port operations, CAP_IDLE and INTERVAL (40_demodulator.md). -/

namespace Sys2Proof.Machine

/-- CAP_IDLE (R100): no field changes; CAP_RESTART = 0 (R103). -/
def execCapIdle (s : State) : Host.Outcome State Fault Refusal := .next (s.setCapRestart false)

/-- INTERVAL N (R101). -/
def execInterval (n : Tick) (s : State) : Host.Outcome State Fault Refusal := .next (s.interval n)

end Sys2Proof.Machine
end

