-- ==== Sys2Proof/Machine/HostPort.lean ====
section
/-! DEFINITION. The host-port operations (43_host_interface.md R170 to R175). -/

namespace Sys2Proof.Machine

/-- HOST_IDLE (R170): RDATA = 0, no field changes. -/
def execHostIdle (s : State) : Host.Outcome State Fault Refusal := .next (s.setRdata 0)

/-- REG_READ IDX (R171): RDATA is the register's value. -/
def execRegRead (idx : RegIdx) (s : State) : Host.Outcome State Fault Refusal :=
  .next (s.setRdata (s.readReg idx))

/-- REG_WRITE IDX, WDATA (R172): RDATA = 0, and the write. -/
def execRegWrite (idx : RegIdx) (v : RegWord) (s : State) : Host.Outcome State Fault Refusal :=
  .next ((s.writeReg idx v).setRdata 0)

/-- HOST_RSVD (R173, R76): no effect, RDATA = 0, no trap. -/
def execHostRsvd (s : State) : Host.Outcome State Fault Refusal := .next (s.setRdata 0)

end Sys2Proof.Machine
end

