-- ==== Sys2Proof/Machine/Reset.lean ====
section
/-! DEFINITION. RESET (70_reset_and_hazards.md R220). -/

namespace Sys2Proof.Machine

/-- RESET (R220): every field to its reset value and every output 0. The words still to come are the
outside world's and stay. Log entry 1. -/
def execReset (s : State) : Host.Outcome State Fault Refusal := .next (State.reset.setInputs s.inputs)

end Sys2Proof.Machine
end

