-- ==== Sys2Proof/Machine/Dispatch.lean ====
section
/-! DEFINITION. One arm for each operation of 30_encoding.md R75. -/

namespace Sys2Proof.Machine

def exec (i : Instr) (s : State) : Host.Outcome State Fault Refusal :=
  match i with
  | .capIdle => Sys2Proof.Machine.execCapIdle s
  | .interval n => Sys2Proof.Machine.execInterval n s
  | .pushBit b => Sys2Proof.Machine.execPushBit b s
  | .hostIdle => Sys2Proof.Machine.execHostIdle s
  | .regRead idx => Sys2Proof.Machine.execRegRead idx s
  | .regWrite idx v => Sys2Proof.Machine.execRegWrite idx v s
  | .hostRsvd => Sys2Proof.Machine.execHostRsvd s
  | .reset => Sys2Proof.Machine.execReset s

end Sys2Proof.Machine
end

