-- ==== Sys2Proof/Machine/Step.lean ====
section
/-! DEFINITION. One step of the block: one clock edge (92_eei_decisions.md D2), composed as 43_host_interface.md R176 composes it. -/

namespace Sys2Proof.Machine

/-- One step. RST = 1 performs RESET alone (30_encoding.md R73, 60_exceptions.md R209). Otherwise the
capture operation runs on the state with `frame_ready` = 0, so that it tells whether it published, the host
operation runs on the state as the step found it, and R176 and R177 join the two. Log entry 6. -/
def step (s : State) : Host.Outcome State Fault Refusal :=
  match decodeStep s.nextWords with
  | .reset => exec .reset s.beginStep
  | .ports cap host =>
    joinOutcomes (exec cap (s.beginStep.setFrameReady false)) (exec host s.beginStep)

/-- `s` with an instruction of the opcode table placed so that the next step runs it (log entries 2, 7, 8). -/
def State.withFetchWord (s : State) (nbits w : Nat) : State :=
  match tableWord nbits w with
  | some p => s.presentWord p
  | none => s

end Sys2Proof.Machine
end

