-- ==== Sys2Proof/Machine/Pseudo.lean ====
section
/-! DEFINITION. The transaction notation of 30_encoding.md R81 (one line, one step's words) and the pseudo-instructions of R82 (one line, several steps). -/

namespace Sys2Proof.Machine

/-! ## Lines (R81): an absent port is idle -/

/-- `IDLE`. -/
def lineIdle : StepWords := encodeStep (.ports .capIdle .hostIdle)

/-- `INTERVAL n`. -/
def lineInterval (n : Tick) : StepWords := encodeStep (.ports (.interval n) .hostIdle)

/-- `RD idx`. -/
def lineRd (idx : RegIdx) : StepWords := encodeStep (.ports .capIdle (.regRead idx))

/-- `WR idx, v`. -/
def lineWr (idx : RegIdx) (v : RegWord) : StepWords := encodeStep (.ports .capIdle (.regWrite idx v))

/-- `INTERVAL n ‖ RD idx`. -/
def lineIntervalRd (n : Tick) (idx : RegIdx) : StepWords := encodeStep (.ports (.interval n) (.regRead idx))

/-- `INTERVAL n ‖ WR idx, v`. -/
def lineIntervalWr (n : Tick) (idx : RegIdx) (v : RegWord) : StepWords :=
  encodeStep (.ports (.interval n) (.regWrite idx v))

/-- `RESET`. -/
def lineReset : StepWords := encodeStep .reset

/-! ## Pseudo-instructions (R82): `half` is a half-cell's length S, `full` a full cell's length L -/

/-- `CONFIG a, b, c, d`. -/
def pseudoConfig (a b c d : Tick) : List StepWords :=
  [lineWr idxOneMin a, lineWr idxOneMax b, lineWr idxZeroMin c, lineWr idxZeroMax d]

/-- `BIT0` or `BIT1`. -/
def pseudoBit (half full : Tick) (b : Bool) : List StepWords :=
  if b then [lineInterval half, lineInterval half] else [lineInterval full]

/-- `BITS b0 b1 ... bk`, in transmission order. -/
def pseudoBits (half full : Tick) : List Bool → List StepWords
  | [] => []
  | b :: bs => pseudoBit half full b ++ pseudoBits half full bs

/-- The sync word, frame bits 64 to 79 (92_eei_decisions.md D38, which takes it from general knowledge). Log entry 17. -/
def syncWord : List Bool :=
  [false, false, true, true, true, true, true, true, true, true, true, true, true, true, false, true]

/-- Frame bits 0 to 63 of a 64-bit data value: frame bit k is bit k (R50). -/
def dataBits (v : BitVec 64) : List Bool := (List.range 64).map v.getLsbD

/-- The 80 frame bits of a data value (95_test_vectors.md section 1). -/
def frameBitsOf (v : BitVec 64) : List Bool := dataBits v ++ syncWord

/-- The data value of `FRAME hh:mm:ss:ff df` (R82, 95_test_vectors.md section 1): each BCD digit at its
field, the drop-frame bit at frame bit 10, every other bit 0. Log entry 17. -/
def frameValue (hh mm ss ff : Nat) (df : Bool) : BitVec 64 :=
  BitVec.ofNat 8 (hh / 10) ++ BitVec.ofNat 8 (hh % 10) ++ BitVec.ofNat 8 (mm / 10) ++ BitVec.ofNat 8 (mm % 10) ++
    BitVec.ofNat 8 (ss / 10) ++ BitVec.ofNat 8 (ss % 10) ++ BitVec.ofNat 8 (ff / 10 + 4 * df.toNat) ++
    BitVec.ofNat 8 (ff % 10)

/-- `FRAME hh:mm:ss:ff df`. -/
def pseudoFrame (half full : Tick) (hh mm ss ff : Nat) (df : Bool) : List StepWords :=
  pseudoBits half full (frameBitsOf (frameValue hh mm ss ff df))

/-- `CONSUME`. -/
def pseudoConsume : List StepWords := [lineWr idxStatus 0x0001]

/-- The reads of TC_CHAR0 to TC_CHAR10 in order. -/
def charReads : List StepWords := (List.finRange 11).map fun n => lineRd (idxTcChar n)

/-- `DRAIN`. -/
def pseudoDrain : List StepWords := lineRd idxStatus :: charReads

end Sys2Proof.Machine
end

