-- ==== Sys2Proof/Safety.lean ====
section
/-! DEFINITION. The terms the claims use: the bounds every step keeps, runs of steps, and the signals of 41_frame_assembler.md section 3. No step of the block stops (60_exceptions.md R200), so a run is safe when it stays within the bounds of 10_state.md R32. -/

namespace Sys2Proof.Machine

/-- The bounds of 10_state.md R32. The one-bit fields are Bool and meet theirs by type. -/
abbrev State.Bounded (s : State) : Prop := s.pos.toNat ≤ 79 ∧ s.ones.toNat ≤ 11

/-- The reset value of every field in the table of 10_state.md R44, and the outputs of a reset step
(70_reset_and_hazards.md R220). -/
abbrev State.HasResetValues (s : State) : Prop :=
  s.oneMin = 0xFFFF ∧ s.oneMax = 0x0000 ∧ s.zeroMin = 0xFFFF ∧ s.zeroMax = 0x0000 ∧
  s.edgeSel = false ∧ s.pending = false ∧ s.ones = 0 ∧ s.pos = 0 ∧ s.syncSeen = false ∧
  (∀ k : Fin 8, s.buf[k] = 0) ∧ s.frameReady = false ∧ s.outDf = false ∧ (∀ n : Fin 11, s.outStr[n] = 0) ∧
  s.outputs = { edgeSel := false, capRestart := false, frameReady := false, rdata := 0 }

/-! ## What the capture side of a step does, read from the state at the start of the step -/

/-- The bit an operation emits (40_demodulator.md R101): a 1 at the second half-cell of a pair, a 0 at a full
cell with nothing pending. -/
def State.emitted (s : State) : Instr → Option Bool
  | .interval n =>
    match s.classify n, s.pending with
    | .half, true => some true
    | .full, false => some false
    | _, _ => none
  | _ => none

/-- The operation makes a sync detection (41_frame_assembler.md R122): it emits the twelfth 1-bit in a row. -/
abbrev State.DetectsSync (s : State) (cap : Instr) : Prop := s.emitted cap = some true ∧ s.ones.toNat = 11

/-- The operation completes a window (41_frame_assembler.md R125): it emits the bit that brings `pos` to 80. -/
abbrev State.Completes (s : State) (cap : Instr) : Prop :=
  s.emitted cap ≠ none ∧ ¬ s.DetectsSync cap ∧ s.pos.toNat = 79

/-- The operation reaches a completion with sync, so it publishes (41_frame_assembler.md R125). -/
abbrev State.Publishes (s : State) (cap : Instr) : Prop := s.Completes cap ∧ s.syncSeen = true

/-! ## Runs -/

/-- The state after k steps; a step that did not answer a next state would leave it where it is. -/
def State.after : Nat → State → State
  | 0, s => s
  | k + 1, s =>
    match step s with
    | .next t => State.after k t
    | .fault _ => s
    | .refused _ => s

/-- The state after the outside world has presented these words, one entry a step. -/
def State.feed (s : State) (ws : List StepWords) : State := State.after ws.length (s.setInputs ws)

/-- The architectural state of 10_state.md R20: everything but the outputs and the model's own fields,
which are brought to their reset values. -/
def State.arch (s : State) : State := (((s.setCapRestart false).setRdata 0).setEvents []).setInputs []

/-! ## Signals -/

/-- The lengths `half` and `full` are classified as what they are (R82: "any S in the half-cell window and any
L in the full-cell window work"; in both windows it would be HALF, R102). -/
abbrev State.Calibrated (s : State) (half full : Tick) : Prop :=
  s.classify half = .half ∧ s.classify full = .full

/-- PUSH_BIT of each bit in turn. -/
def State.pushBits (s : State) : List Bool → State
  | [] => s
  | b :: bs => (s.pushBit b).pushBits bs

/-- The buffer after each bit in turn has been shifted in (20_memory.md R50). -/
def shiftAll (b : FrameBuf) : List Bool → FrameBuf
  | [] => b
  | c :: cs => shiftAll (shiftBuf c b) cs

/-- No prefix of the bits brings a run counter that stands at k to 12 (R121, R122). -/
def noSyncRun (k : Nat) : List Bool → Bool
  | [] => true
  | false :: bs => noSyncRun 0 bs
  | true :: bs => decide (k + 1 < 12) && noSyncRun (k + 1) bs

end Sys2Proof.Machine
end

