-- ==== Sys2Proof/Certificates/Slice0/Obligations.lean ====
section
/-! DEFINITION. The statements about the model, each from the rule of spec/ its docstring names. -/

open Sys2Proof Sys2Proof.Machine

/-! ## Reset and the bounds of the counters -/

/-- R220 with the table of R44: from any state RESET answers a state in which every field holds its reset
value and every output is 0. -/
def Obligations.ResetRestoresEveryField : Prop :=
  ∀ s : State, ∃ t, exec .reset s = .next t ∧ t.HasResetValues

/-- R220 for a whole step: with RST = 1, whatever the CAP and HOST words are, the step is RESET alone. -/
def Obligations.ResetStepIgnoresBothPorts : Prop :=
  ∀ s : State, s.nextWords.rst = 1 → ∃ t, step s = .next t ∧ t.HasResetValues

/-- R44 and R32: the model's start state holds the reset values, so the counters are in their bounds. -/
def Obligations.StartStateIsBounded : Prop :=
  State.reset.HasResetValues ∧ State.reset.Bounded

/-- R32: between any two steps `pos` ≤ 79 and `ones` ≤ 11. Reset gives it, every operation keeps it, and
so does every step. -/
def Obligations.StepsKeepTheCounterBounds : Prop :=
  State.reset.Bounded ∧
  (∀ (i : Instr) (s t : State), s.Bounded → exec i s = .next t → t.Bounded) ∧
  (∀ s t : State, s.Bounded → step s = .next t → t.Bounded)

/-- R200: no fault stops the block. Every operation and every step answers a next state. -/
def Obligations.NothingStopsTheBlock : Prop :=
  (∀ (i : Instr) (s : State), ∃ t, exec i s = .next t) ∧ (∀ s : State, ∃ t, step s = .next t)

/-- A run of any length answers the state `State.after` names, from any state. -/
def Obligations.RunsReachTheStateAfter : Prop :=
  ∀ (k : Nat) (s : State), Host.Core.run core k s = .next (s.after k)

/-! ## Words and operations -/

/-- The encoder drops no bit of an operation: decoding its word gives it back. -/
def Obligations.DecodingInvertsEncoding : Prop :=
  ∀ i : Instr, decode (encode i) = .ok i

/-- The same for the words of a whole step, for every well-formed pair of operations. -/
def Obligations.StepDecodingInvertsEncoding : Prop :=
  ∀ p : StepOps, p.wf = true → decodeStep (encodeStep p) = p

/-- Encoding what a word decodes to gives the word with its ignored bits cleared: bits 30:16 of a CAP
word and all of an idle one below VALID; bits 29:24 of a HOST word, with the fields its OP does not use. -/
def Obligations.EncodingClearsTheIgnoredBits : Prop :=
  (∀ w : PortBits, encode (decodeCap w) = .cap (if w.getLsbD 31 then w &&& 0x8000FFFF else 0)) ∧
  (∀ w : PortBits, encode (decodeHost w) = .host
    (if w.toNat / 2 ^ 30 = 1 then w &&& 0xC0FF0000
     else if w.toNat / 2 ^ 30 = 2 then w &&& 0xC0FFFFFF
     else w &&& 0xC0000000))

/-- R75: the operations and their encodings, by the values of the fields of each word. -/
def Obligations.WordsDecodeByTheirFields : Prop :=
  (∀ w : PortBits, decode (.cap w) = .ok
    (if w.toNat / 2 ^ 31 = 0 then .capIdle else .interval (BitVec.ofNat 16 (w.toNat % 2 ^ 16)))) ∧
  (∀ w : PortBits,
    (w.toNat / 2 ^ 30 = 0 → decode (.host w) = .ok .hostIdle) ∧
    (w.toNat / 2 ^ 30 = 1 → decode (.host w) = .ok (.regRead (BitVec.ofNat 8 (w.toNat / 2 ^ 16 % 2 ^ 8)))) ∧
    (w.toNat / 2 ^ 30 = 2 → decode (.host w) =
      .ok (.regWrite (BitVec.ofNat 8 (w.toNat / 2 ^ 16 % 2 ^ 8)) (BitVec.ofNat 16 (w.toNat % 2 ^ 16)))) ∧
    (w.toNat / 2 ^ 30 = 3 → decode (.host w) = .ok .hostRsvd)) ∧
  (∀ w : Strobe,
    (w.toNat = 2 → decode (.int w) = .ok (.pushBit false)) ∧
    (w.toNat = 3 → decode (.int w) = .ok (.pushBit true)) ∧
    (w.toNat < 2 → decode (.int w) = .error .noBit)) ∧
  (∀ w : BitVec 1,
    (w.toNat = 1 → decode (.rst w) = .ok .reset) ∧ (w.toNat = 0 → decode (.rst w) = .error .noReset))

/-- R77: two words that agree outside the reserved and the unused bits perform the same operation. That
REG_READ uses IDX is R71's and R171's (log entry 10). -/
def Obligations.IgnoredBitsDoNotMatter : Prop :=
  (∀ w w' : PortBits, w.toNat / 2 ^ 31 = w'.toNat / 2 ^ 31 →
    (w.toNat / 2 ^ 31 = 1 → w.toNat % 2 ^ 16 = w'.toNat % 2 ^ 16) → decodeCap w = decodeCap w') ∧
  (∀ w w' : PortBits, w.toNat / 2 ^ 30 = w'.toNat / 2 ^ 30 →
    (w.toNat / 2 ^ 30 = 1 ∨ w.toNat / 2 ^ 30 = 2 → w.toNat / 2 ^ 16 % 2 ^ 8 = w'.toNat / 2 ^ 16 % 2 ^ 8) →
    (w.toNat / 2 ^ 30 = 2 → w.toNat % 2 ^ 16 = w'.toNat % 2 ^ 16) → decodeHost w = decodeHost w')

/-- Words written out from R70 to R75, one for each operation, decode to what they stand for. -/
def Obligations.WrittenOutWordsDecode : Prop :=
  decode (.cap 0x7FFFFFFF) = .ok .capIdle ∧
  decode (.cap 0xFFFF01F4) = .ok (.interval 500) ∧
  decode (.int 0b11) = .ok (.pushBit true) ∧
  decode (.host 0x00FF1234) = .ok .hostIdle ∧
  decode (.host 0x7F040000) = .ok (.regRead 0x04) ∧
  decode (.host 0x8003044C) = .ok (.regWrite 0x03 1100) ∧
  decode (.host 0xC0FF1234) = .ok .hostRsvd ∧
  decode (.rst 1) = .ok .reset

/-! ## One step -/

/-- R73 and R176: a step performs the operations its words decode to. RST = 1 is exec of RESET; otherwise
both operations run from the state the step found (the capture side on a copy whose `frame_ready` is 0), and
the next state takes each field from the side that writes it. Around exec the step takes the words from
`inputs` (idle ports when none waits: log entry 1) and starts an empty record of events (log entry 4). -/
def Obligations.StepRunsTheDecodedOperations : Prop :=
  ∀ s : State,
    let s0 : State := { s with inputs := s.inputs.tail, events := [] }
    (s.inputs = [] → s.nextWords = encodeStep (.ports .capIdle .hostIdle)) ∧
    (∀ w ws, s.inputs = w :: ws → s.nextWords = w) ∧
    (decodeStep s.nextWords = .reset → step s = exec .reset s0) ∧
    (∀ cap host, decodeStep s.nextWords = .ports cap host →
      ∃ c h t, exec cap { s0 with frameReady := false } = .next c ∧ exec host s0 = .next h ∧ step s = .next t ∧
        t = { c with
              oneMin := h.oneMin, oneMax := h.oneMax, zeroMin := h.zeroMin, zeroMax := h.zeroMax,
              rdata := h.rdata, frameReady := c.frameReady || h.frameReady })

/-- An operation presented while the other port is idle: the step is its exec, and the idle port's output is 0. -/
def Obligations.StepOfOneOperationIsItsExec : Prop :=
  ∀ (s : State) (ws : List StepWords) (i : Instr),
    (i.port = .cap → s.inputs = encodeStep (.ports i .hostIdle) :: ws →
      ∃ t, exec i { s with inputs := ws, events := [] } = .next t ∧ step s = .next { t with rdata := 0 }) ∧
    (i.port = .host → s.inputs = encodeStep (.ports .capIdle i) :: ws →
      ∃ t, exec i { s with inputs := ws, events := [] } = .next t ∧ step s = .next { t with capRestart := false })

/-- R177: `frame_ready` after a step is 1 exactly if the step's INTERVAL reached a completion with sync, or it
was 1 and the host did not consume it. -/
def Obligations.SettingFrameReadyWins : Prop :=
  ∀ (s : State) (cap host : Instr), decodeStep s.nextWords = .ports cap host →
    ∃ t, step s = .next t ∧
      (t.frameReady = true ↔ s.Publishes cap ∨
        (s.frameReady = true ∧ ¬ ∃ v : RegWord, host = .regWrite 0x04 v ∧ v.toNat % 2 = 1))

/-- R176: the two sides of a step do not depend on each other. The core's fields, its outputs and the events
are the same whatever stands on the host port; the thresholds and RDATA are the same whatever stands on
the capture port. -/
def Obligations.SidesOfAStepAreIndependent : Prop :=
  ∀ (s : State) (w w' : StepWords) (ws : List StepWords), w.rst = 0 → w'.rst = 0 →
    ∃ t t', step { s with inputs := w :: ws } = .next t ∧ step { s with inputs := w' :: ws } = .next t' ∧
      (w.cap = w'.cap →
        t.edgeSel = t'.edgeSel ∧ t.pending = t'.pending ∧ t.ones = t'.ones ∧ t.pos = t'.pos ∧
        t.syncSeen = t'.syncSeen ∧ t.buf = t'.buf ∧ t.outDf = t'.outDf ∧ t.outStr = t'.outStr ∧
        t.capRestart = t'.capRestart ∧ t.events = t'.events) ∧
      (w.host = w'.host →
        t.oneMin = t'.oneMin ∧ t.oneMax = t'.oneMax ∧ t.zeroMin = t'.zeroMin ∧ t.zeroMax = t'.zeroMax ∧
        t.rdata = t'.rdata)

/-- R174 with R220: in a step that is no reset, a threshold differs afterwards only if the host wrote that
threshold, and then it holds the value written. -/
def Obligations.CalibrationChangesOnlyByHostWrite : Prop :=
  ∀ (s t : State) (cap host : Instr), decodeStep s.nextWords = .ports cap host → step s = .next t →
    (t.oneMin = s.oneMin ∨ host = .regWrite 0x00 t.oneMin) ∧
    (t.oneMax = s.oneMax ∨ host = .regWrite 0x01 t.oneMax) ∧
    (t.zeroMin = s.zeroMin ∨ host = .regWrite 0x02 t.zeroMin) ∧
    (t.zeroMax = s.zeroMax ∨ host = .regWrite 0x03 t.zeroMax)

/-- R166: the published string and flag change only in a step that publishes or resets. -/
def Obligations.OutputLatchChangesOnlyAtPublish : Prop :=
  ∀ (s : State) (cap host : Instr), decodeStep s.nextWords = .ports cap host → ¬ s.Publishes cap →
    ∃ t, step s = .next t ∧ t.outStr = s.outStr ∧ t.outDf = s.outDf

/-- R26: `sync_seen` is set by a sync detection and only by one, and cleared only by a completion or by
reset; a recovery does not clear it. -/
def Obligations.SyncSeenIsSetAndCleared : Prop :=
  ∀ (s : State) (cap host : Instr), decodeStep s.nextWords = .ports cap host →
    ∃ t, step s = .next t ∧
      (s.DetectsSync cap → t.syncSeen = true) ∧
      (t.syncSeen = true → s.syncSeen = true ∨ s.DetectsSync cap) ∧
      (s.syncSeen = true → t.syncSeen = false → s.Completes cap) ∧
      (s.emitted cap = none → t.syncSeen = s.syncSeen)

/-- R208: no two of the faults, a sync detection and a publish fall in one operation, so every operation
raises at most one fault; and no two fall in one step. Read from the model's record (log entry 4). -/
def Obligations.EventsOfOneOperationExclude : Prop :=
  (∀ (i : Instr) (s t : State), s.events = [] → exec i s = .next t → t.events.length ≤ 1) ∧
  (∀ s t : State, step s = .next t → t.events.length ≤ 1)

/-- The table of R201, as the model's record of a step (log entry 4) holds it: which fault is raised when,
with sync detections (R122) and publishes (R125) beside them. A reset step records nothing. -/
def Obligations.EventsRecordWhatHappened : Prop :=
  ∀ s : State, ∃ t, step s = .next t ∧
    (decodeStep s.nextWords = .reset → t.events = []) ∧
    ∀ cap host, decodeStep s.nextWords = .ports cap host →
      (Event.fault .signalTimingFault ∈ t.events ↔ ∃ n, cap = .interval n ∧ s.classify n = .invalid) ∧
      (Event.fault .alignmentFault ∈ t.events ↔
        ∃ n, cap = .interval n ∧ s.classify n = .full ∧ s.pending = true) ∧
      (Event.fault .frameBoundaryMismatch ∈ t.events ↔ s.Completes cap ∧ s.syncSeen = false) ∧
      (Event.sync ∈ t.events ↔ s.DetectsSync cap) ∧
      (Event.publish ∈ t.events ↔ s.Publishes cap)

/-- R34 with R103 and R171: the outputs of a step. EDGE_SEL toggles with every INTERVAL and with nothing else,
and CAP_RESTART is 1 in exactly those steps; FRAME_READY is the flag after the step; RDATA is 0 unless
the host reads. A reset step drives all four to 0 (R220). -/
def Obligations.OutputPortsOfAStep : Prop :=
  ∀ s : State, ∃ t, step s = .next t ∧
    t.outputs.frameReady = t.frameReady ∧ t.outputs.edgeSel = t.edgeSel ∧
    (decodeStep s.nextWords = .reset →
      t.outputs = { edgeSel := false, capRestart := false, frameReady := false, rdata := 0 }) ∧
    ∀ cap host, decodeStep s.nextWords = .ports cap host →
      (∀ n, cap = .interval n → t.outputs.edgeSel = !s.edgeSel ∧ t.outputs.capRestart = true) ∧
      (cap = .capIdle → t.outputs.edgeSel = s.edgeSel ∧ t.outputs.capRestart = false) ∧
      (∀ idx, host = .regRead idx → t.outputs.rdata = s.readReg idx) ∧
      ((∀ idx, host ≠ .regRead idx) → t.outputs.rdata = 0)

/-! ## The demodulator -/

/-- R102: the three classes, the half-cell window first, both comparisons unsigned and inclusive; so an
interval in both windows is HALF, and a window whose min exceeds its max holds none. The thresholds are those
at the start of the step: what the step does to the core is what INTERVAL does on the state it found,
whatever the host port writes in it. -/
def Obligations.IntervalsAreClassifiedByWindow : Prop :=
  ∀ (s : State) (n : Tick),
    (s.classify n = .half ↔ s.oneMin.toNat ≤ n.toNat ∧ n.toNat ≤ s.oneMax.toNat) ∧
    (s.classify n = .full ↔ ¬ (s.oneMin.toNat ≤ n.toNat ∧ n.toNat ≤ s.oneMax.toNat) ∧
      s.zeroMin.toNat ≤ n.toNat ∧ n.toNat ≤ s.zeroMax.toNat) ∧
    (s.classify n = .invalid ↔ ¬ (s.oneMin.toNat ≤ n.toNat ∧ n.toNat ≤ s.oneMax.toNat) ∧
      ¬ (s.zeroMin.toNat ≤ n.toNat ∧ n.toNat ≤ s.zeroMax.toNat)) ∧
    (s.oneMax.toNat < s.oneMin.toNat → s.classify n ≠ .half) ∧
    (s.zeroMax.toNat < s.zeroMin.toNat → s.classify n ≠ .full) ∧
    (∀ host, decodeStep s.nextWords = .ports (.interval n) host →
      ∃ c t, exec (.interval n) s = .next c ∧ step s = .next t ∧ t.pending = c.pending ∧ t.ones = c.ones ∧
        t.pos = c.pos ∧ t.syncSeen = c.syncSeen ∧ t.buf = c.buf)

/-- R101 with R202: INTERVAL in its five cases. The first half-cell of a pair waits, the second emits a 1
(PUSH_BIT runs in the same operation), a full cell emits a 0; a full cell while a half-bit is pending, and
an interval in neither window, clear `pos` and `pending` and change nothing else (`es` is the model's
record, log entry 4). -/
def Obligations.IntervalActsByClassAndPending : Prop :=
  ∀ (s : State) (n : Tick),
    (s.oneMin.toNat ≤ n.toNat ∧ n.toNat ≤ s.oneMax.toNat →
      (s.pending = false →
        exec (.interval n) s = .next { s with edgeSel := !s.edgeSel, capRestart := true, pending := true }) ∧
      (s.pending = true →
        ∃ t, exec (.pushBit true) { s with edgeSel := !s.edgeSel, capRestart := true, pending := false } = .next t ∧
          exec (.interval n) s = .next t)) ∧
    (¬ (s.oneMin.toNat ≤ n.toNat ∧ n.toNat ≤ s.oneMax.toNat) →
      s.zeroMin.toNat ≤ n.toNat ∧ n.toNat ≤ s.zeroMax.toNat →
      (s.pending = false →
        ∃ t, exec (.pushBit false) { s with edgeSel := !s.edgeSel, capRestart := true } = .next t ∧
          exec (.interval n) s = .next t) ∧
      (s.pending = true →
        ∃ es, exec (.interval n) s = .next { s with
          edgeSel := !s.edgeSel, capRestart := true, pos := 0, pending := false, events := es })) ∧
    (¬ (s.oneMin.toNat ≤ n.toNat ∧ n.toNat ≤ s.oneMax.toNat) →
      ¬ (s.zeroMin.toNat ≤ n.toNat ∧ n.toNat ≤ s.zeroMax.toNat) →
      ∃ es, exec (.interval n) s = .next { s with
        edgeSel := !s.edgeSel, capRestart := true, pos := 0, pending := false, events := es })

/-- What INTERVAL leaves unchanged in every case: the thresholds, RDATA and the words to come always; the
published frame and `frame_ready` unless it publishes; the host registers too, then. It toggles `edge_sel`
and drives CAP_RESTART, and adds at most one event. -/
def Obligations.IntervalFrame : Prop :=
  ∀ (n : Tick) (s t : State), exec (.interval n) s = .next t →
    t.oneMin = s.oneMin ∧ t.oneMax = s.oneMax ∧ t.zeroMin = s.zeroMin ∧ t.zeroMax = s.zeroMax ∧
    t.rdata = s.rdata ∧ t.inputs = s.inputs ∧ t.edgeSel = !s.edgeSel ∧ t.capRestart = true ∧
    ∃ es, t.events = s.events ++ es ∧ es.length ≤ 1 ∧
      (Event.publish ∉ es →
        t.outStr = s.outStr ∧ t.outDf = s.outDf ∧ t.frameReady = s.frameReady ∧
        ∀ idx : RegIdx, t.readReg idx = s.readReg idx)

/-! ## The frame assembler -/

/-- R121 and R122: a 0-bit clears `ones`; a 1-bit counts it up; the twelfth 1-bit in a row is a sync
detection, which clears `ones`, sets `sync_seen` and forces `pos` to 77, so that it stands at 78 when the bit
is counted (R124), whatever `pos` was; the bit is then neither shifted nor does it complete a window. No
operation but RESET and the emission of a bit changes `ones`: no recovery, and nothing on the host port. -/
def Obligations.PushBitTracksSync : Prop :=
  ∀ s : State,
    (∃ t, exec (.pushBit false) s = .next t ∧ t.ones = 0) ∧
    (s.ones.toNat < 11 → ∃ t, exec (.pushBit true) s = .next t ∧ t.ones.toNat = s.ones.toNat + 1) ∧
    (s.ones.toNat = 11 →
      ∃ es, exec (.pushBit true) s = .next { s with ones := 0, syncSeen := true, pos := 78, events := es }) ∧
    (∀ i : Instr, i ≠ .reset → (∀ b, i ≠ .pushBit b) → s.emitted i = none →
      ∃ t, exec i s = .next t ∧ t.ones = s.ones)

/-- R123 with R50: unless the bit is a sync detection (which forces `pos` out of the data region first),
at `pos` ≤ 63 the 64-bit buffer value moves right by one and takes the bit at its most significant end; at
`pos` ≥ 64 the buffer is unchanged. -/
def Obligations.PushBitShiftsTheBuffer : Prop :=
  ∀ (s : State) (b : Bool), ∃ t, exec (.pushBit b) s = .next t ∧
    ((b = true ∧ s.ones.toNat = 11) ∨ 64 ≤ s.pos.toNat → t.buf = s.buf) ∧
    (¬ (b = true ∧ s.ones.toNat = 11) → s.pos.toNat ≤ 63 →
      (bufValue t.buf).toNat = (bufValue s.buf).toNat / 2 + b.toNat * 2 ^ 63)

/-- R124 and R125 with R203, for a bit that is no sync detection: `pos` counts every bit; the bit that
brings it to 80 sets it to 0 and completes the window. With sync seen, `sync_seen` is cleared, `frame_ready`
is set and the frame is published; without, the window is discarded and no other field changes but `ones`. -/
def Obligations.PushBitCountsAndCompletes : Prop :=
  ∀ (s : State) (b : Bool), ¬ (b = true ∧ s.ones.toNat = 11) → s.pos.toNat ≤ 79 →
    ∃ t, exec (.pushBit b) s = .next t ∧
      (s.pos.toNat < 79 →
        t = { s with pos := s.pos + 1, ones := t.ones, buf := t.buf }) ∧
      (s.pos.toNat = 79 → s.syncSeen = true →
        t = { s with
              pos := 0, ones := t.ones, syncSeen := false, frameReady := true,
              outStr := formatFrame s.buf, outDf := dropFrame s.buf, events := t.events }) ∧
      (s.pos.toNat = 79 → s.syncSeen = false →
        t = { s with pos := 0, ones := t.ones, events := t.events })

/-- What PUSH_BIT leaves unchanged in every case. -/
def Obligations.PushBitFrame : Prop :=
  ∀ (b : Bool) (s t : State), exec (.pushBit b) s = .next t →
    t.oneMin = s.oneMin ∧ t.oneMax = s.oneMax ∧ t.zeroMin = s.zeroMin ∧ t.zeroMax = s.zeroMax ∧
    t.edgeSel = s.edgeSel ∧ t.pending = s.pending ∧ t.capRestart = s.capRestart ∧ t.rdata = s.rdata ∧
    t.inputs = s.inputs ∧
    (¬ (s.pos.toNat = 79 ∧ s.syncSeen = true) →
      t.outStr = s.outStr ∧ t.outDf = s.outDf ∧ t.frameReady = s.frameReady)

/-! ## The published frame -/

/-- R150 with R151 to R162: a completion with sync latches the eleven characters and the drop-frame flag,
here from the 64-bit buffer value (bit 8k + j of it is bit j of byte k, R8). -/
def Obligations.PublishFormatsTheFrame : Prop :=
  ∀ (s : State) (b : Bool), s.pos.toNat = 79 → s.syncSeen = true → ¬ (b = true ∧ s.ones.toNat = 11) →
    ∃ t, exec (.pushBit b) s = .next t ∧
      let v := (bufValue s.buf).toNat
      t.outStr.toList.map BitVec.toNat =
        [0x30 + v / 2 ^ 56 % 4, 0x30 + v / 2 ^ 48 % 16, 0x3A,
         0x30 + v / 2 ^ 40 % 8, 0x30 + v / 2 ^ 32 % 16, 0x3A,
         0x30 + v / 2 ^ 24 % 8, 0x30 + v / 2 ^ 16 % 16, if v / 2 ^ 10 % 2 = 1 then 0x3B else 0x3A,
         0x30 + v / 2 ^ 8 % 4, 0x30 + v % 16] ∧
      (t.outDf = true ↔ v / 2 ^ 10 % 2 = 1)

/-- R163: the bits not named by R151 to R159 affect no output of a publish. The mask keeps the named bits. -/
def Obligations.PublishIgnoresTheOtherBits : Prop :=
  ∀ (s : State) (other : FrameBuf) (b : Bool),
    bufValue s.buf &&& 0x030F070F070F070F = bufValue other &&& 0x030F070F070F070F →
    s.pos.toNat = 79 → s.syncSeen = true → ¬ (b = true ∧ s.ones.toNat = 11) →
    ∃ t t', exec (.pushBit b) s = .next t ∧ exec (.pushBit b) { s with buf := other } = .next t' ∧
      t.outStr = t'.outStr ∧ t.outDf = t'.outDf ∧ t.frameReady = true ∧ t'.frameReady = true

/-- R126: after any bits and then 64 more shifted into any buffer, bit i of the buffer value is the i-th of
those 64, so frame bit k is at `buf[k div 8][k mod 8]`. -/
def Obligations.BufferHoldsTheLastSixtyFourBits : Prop :=
  ∀ (b : FrameBuf) (cs ds : List Bool) (h : ds.length = 64) (i : Fin 64),
    (bufValue (shiftAll b (cs ++ ds))).getLsbD i = ds[i] ∧
    ((shiftAll b (cs ++ ds))[i.val / 8]).getLsbD (i.val % 8) = ds[i]

/-! ## The host port -/

/-- R171: what REG_READ returns for every index, with STATUS by R40, the characters by R41 and the reserved
indices by R35; and it changes nothing else. In a step it returns the register as the step found it,
whatever the capture side does in that step (R176). -/
def Obligations.RegReadReturnsTheRegister : Prop :=
  ∀ s : State,
    exec (.regRead 0x00) s = .next { s with rdata := s.oneMin } ∧
    exec (.regRead 0x01) s = .next { s with rdata := s.oneMax } ∧
    exec (.regRead 0x02) s = .next { s with rdata := s.zeroMin } ∧
    exec (.regRead 0x03) s = .next { s with rdata := s.zeroMax } ∧
    exec (.regRead 0x04) s =
      .next { s with rdata := BitVec.ofNat 16 (s.frameReady.toNat + 2 * s.outDf.toNat) } ∧
    (∀ (idx : RegIdx) (n : Fin 11), idx.toNat = 0x10 + n.val →
      exec (.regRead idx) s = .next { s with rdata := BitVec.ofNat 16 (s.outStr[n]).toNat }) ∧
    (∀ idx : RegIdx, (0x05 ≤ idx.toNat ∧ idx.toNat ≤ 0x0F) ∨ 0x1B ≤ idx.toNat →
      exec (.regRead idx) s = .next { s with rdata := 0 }) ∧
    (∀ cap idx, decodeStep s.nextWords = .ports cap (.regRead idx) →
      ∃ r t, exec (.regRead idx) s = .next r ∧ step s = .next t ∧ t.rdata = r.rdata)

/-- R172 with R175: what REG_WRITE changes for every index. A threshold takes the whole value; STATUS takes
bit 0 only, and a 1 there clears `frame_ready`; TC_CHARn and reserved indices ignore the write. -/
def Obligations.RegWriteWritesTheRegister : Prop :=
  ∀ (s : State) (v : RegWord),
    exec (.regWrite 0x00 v) s = .next { s with oneMin := v, rdata := 0 } ∧
    exec (.regWrite 0x01 v) s = .next { s with oneMax := v, rdata := 0 } ∧
    exec (.regWrite 0x02 v) s = .next { s with zeroMin := v, rdata := 0 } ∧
    exec (.regWrite 0x03 v) s = .next { s with zeroMax := v, rdata := 0 } ∧
    (v.toNat % 2 = 1 → exec (.regWrite 0x04 v) s = .next { s with frameReady := false, rdata := 0 }) ∧
    (v.toNat % 2 = 0 → exec (.regWrite 0x04 v) s = .next { s with rdata := 0 }) ∧
    (∀ idx : RegIdx, 0x05 ≤ idx.toNat → exec (.regWrite idx v) s = .next { s with rdata := 0 })

/-- R100, R170 and R173: the idle operations and the reserved host operation change no field; each drives
its own port's output to 0. -/
def Obligations.IdleOperationsChangeNothing : Prop :=
  ∀ s : State,
    exec .capIdle s = .next { s with capRestart := false } ∧
    exec .hostIdle s = .next { s with rdata := 0 } ∧
    exec .hostRsvd s = .next { s with rdata := 0 }

/-- R43 with R226: every value written to a threshold in one step reads back in the next, whatever the
capture port carries in the two. -/
def Obligations.ThresholdsReadBackAsWritten : Prop :=
  ∀ (s : State) (idx : RegIdx) (v : RegWord) (c c' : PortBits), idx.toNat ≤ 3 →
    (s.feed [⟨0, c, hostWord 0b10 idx v⟩, ⟨0, c', hostWord 0b01 idx 0⟩]).rdata = v

/-- R42: `pending`, `ones`, `pos`, `sync_seen` and `buf` (and `edge_sel`) show in no register. -/
def Obligations.NoRegisterShowsInternalState : Prop :=
  ∀ (s : State) (idx : RegIdx) (edgeSel pending syncSeen : Bool) (ones : BitVec 4) (pos : BitVec 7) (buf : FrameBuf),
    ∃ t t', exec (.regRead idx) s = .next t ∧
      exec (.regRead idx) { s with
        edgeSel := edgeSel, pending := pending, syncSeen := syncSeen, ones := ones, pos := pos, buf := buf } = .next t' ∧
      t.rdata = t'.rdata

/-! ## Runs -/

/-- R55: reads have no side effect. Over any run from any state, replacing every host read by an idle host
port leaves the same architectural state, the same CAP_RESTART and the same events of the last step. A read
or a write repeated leaves the state the first one left. -/
def Obligations.HostReadsHaveNoSideEffect : Prop :=
  (∀ (s : State) (ws : List StepWords),
    let t := s.feed ws
    let t' := s.feed (ws.map fun w => if w.host.toNat / 2 ^ 30 = 1 then { w with host := 0 } else w)
    t'.arch = t.arch ∧ t'.capRestart = t.capRestart ∧ t'.events = t.events) ∧
  (∀ (s : State) (idx : RegIdx), ∃ t, exec (.regRead idx) s = .next t ∧ exec (.regRead idx) t = .next t) ∧
  (∀ (s : State) (idx : RegIdx) (v : RegWord),
    ∃ t, exec (.regWrite idx v) s = .next t ∧ exec (.regWrite idx v) t = .next t)

/-- R232 with R100: idle steps may be put in or left out anywhere in a run. -/
def Obligations.IdleStepsMayBeLeftOut : Prop :=
  ∀ (s : State) (ws : List StepWords), (s.feed (ws.filter (· ≠ lineIdle))).arch = (s.feed ws).arch

/-- R225: until the thresholds are written, any number of capture events leaves the whole state at its reset
values, except `edge_sel`, which has toggled once per event; and each of them is a signal timing fault. -/
def Obligations.UnconfiguredBlockStaysAtReset : Prop :=
  ∀ (ns : List Tick) (n : Tick),
    (State.reset.feed (ns.map lineInterval)).arch = State.reset.setEdgeSel (decide (ns.length % 2 = 1)) ∧
    (State.reset.feed ((ns ++ [n]).map lineInterval)).events = [.fault .signalTimingFault]

/-- R105, the aligned case: from any state with no half-bit pending, the intervals of a correctly encoded
stream of bits perform PUSH_BIT of exactly those bits, in order, and leave no half-bit pending. `edge_sel`
has toggled once per interval. -/
def Obligations.AlignedDemodulatorEmitsTheBits : Prop :=
  ∀ (s : State) (half full : Tick) (bits : List Bool), s.Calibrated half full → s.pending = false →
    (s.feed (pseudoBits half full bits)).arch =
      (s.pushBits bits).arch.setEdgeSel (s.edgeSel ^^ decide ((pseudoBits half full bits).length % 2 = 1)) ∧
    (s.feed (pseudoBits half full bits)).pending = false

/-- R105, the misaligned case: with a half-bit pending at a cell boundary, each following 1-bit still emits a 1;
the first 0-bit emits nothing, is an ALIGNMENT_FAULT, and leaves the demodulator aligned. -/
def Obligations.FirstZeroBitRealignsThePairing : Prop :=
  ∀ (s : State) (half full : Tick) (k : Nat), s.Calibrated half full → s.pending = true →
    (s.feed (pseudoBits half full (List.replicate k true ++ [false]))).arch =
      (((s.pushBits (List.replicate k true)).arch.setPending false).setPos 0).setEdgeSel (!s.edgeSel) ∧
    (s.feed (pseudoBits half full (List.replicate k true ++ [false]))).events = [.fault .alignmentFault]

/-- R127 (a): from any state at all, the sixteen bits of the sync word (frame bits 64 to 79) detect sync at
frame bit 77 and complete at bit 79 with a publish, leaving the decoder anchored at bit 0 of the next frame.
From a state with no half-bit pending the last fifteen do. -/
def Obligations.SyncWordAnchorsTheDecoder : Prop :=
  ∀ (s : State) (half full : Tick) (bits : List Bool), s.Calibrated half full →
    bits = syncWord ∨ (s.pending = false ∧ bits = syncWord.drop 1) →
    (let u := s.feed (pseudoBits half full (bits.take (bits.length - 2)))
     u.events = [.sync] ∧ u.pos = 78 ∧ u.syncSeen = true ∧ u.ones = 0) ∧
    (let t := s.feed (pseudoBits half full bits)
     t.events = [.publish] ∧ t.frameReady = true ∧ t.pos = 0 ∧ t.pending = false ∧ t.syncSeen = false ∧ t.ones = 1)

/-- R127 (b): from any state anchored at bit 0 of a frame, a frame whose bits 0 to 76 bring no run of 1-bits to
12 is published exactly: the buffer holds its data bits, and the published characters and flag are those of
its fields. The decoder is anchored at bit 0 of the next frame. -/
def Obligations.AnchoredFrameIsPublishedExactly : Prop :=
  ∀ (s : State) (half full : Tick) (v : BitVec 64), s.Calibrated half full → s.pending = false → s.pos = 0 →
    noSyncRun s.ones.toNat ((frameBitsOf v).take 77) = true →
    let t := s.feed (pseudoBits half full (frameBitsOf v))
    t.events = [.publish] ∧ t.frameReady = true ∧ bufValue t.buf = v ∧ t.outDf = v.getLsbD 10 ∧
    t.outStr.toList.map BitVec.toNat =
      [0x30 + v.toNat / 2 ^ 56 % 4, 0x30 + v.toNat / 2 ^ 48 % 16, 0x3A,
       0x30 + v.toNat / 2 ^ 40 % 8, 0x30 + v.toNat / 2 ^ 32 % 16, 0x3A,
       0x30 + v.toNat / 2 ^ 24 % 8, 0x30 + v.toNat / 2 ^ 16 % 16, if v.getLsbD 10 then 0x3B else 0x3A,
       0x30 + v.toNat / 2 ^ 8 % 4, 0x30 + v.toNat % 16] ∧
    t.pos = 0 ∧ t.pending = false ∧ t.syncSeen = false ∧ t.ones = 1

/-- R129: a frame whose BCD fields are in range holds no run of twelve 1-bits in its bits 0 to 63, whatever
its other bits are, even counting the 1-bit carried in from the frame before. -/
def Obligations.ValidDigitsHoldNoFalseSync : Prop :=
  ∀ v : BitVec 64,
    v.toNat % 16 ≤ 9 → v.toNat / 2 ^ 8 % 4 ≤ 2 → v.toNat / 2 ^ 16 % 16 ≤ 9 → v.toNat / 2 ^ 24 % 8 ≤ 5 →
    v.toNat / 2 ^ 32 % 16 ≤ 9 → v.toNat / 2 ^ 40 % 8 ≤ 5 → v.toNat / 2 ^ 48 % 16 ≤ 9 → v.toNat / 2 ^ 56 % 4 ≤ 2 →
    noSyncRun 1 (dataBits v) = true

/-- The end-to-end property (R127, R129, R130; W2 and W3 of 95_test_vectors.md): from ANY state, whatever went
before, one frame of any content and then the frame of a valid timecode publish exactly that timecode as
text, with its separator and its drop-frame flag. -/
def Obligations.ValidTimecodeDecodesFromAnyState : Prop :=
  ∀ (s : State) (half full : Tick) (v : BitVec 64) (hh mm ss ff : Nat) (df : Bool), s.Calibrated half full →
    hh < 24 → mm < 60 → ss < 60 → ff < 30 →
    let t := s.feed (pseudoBits half full (frameBitsOf v) ++ pseudoFrame half full hh mm ss ff df)
    t.events = [.publish] ∧ t.frameReady = true ∧ t.outDf = df ∧
    t.outStr.toList.map BitVec.toNat =
      [0x30 + hh / 10, 0x30 + hh % 10, 0x3A, 0x30 + mm / 10, 0x30 + mm % 10, 0x3A,
       0x30 + ss / 10, 0x30 + ss % 10, if df then 0x3B else 0x3A, 0x30 + ff / 10, 0x30 + ff % 10]

/-- R228: the consistent drain. A host consumes the frame, reads the eleven characters and then STATUS, while
the capture port carries anything. If that last read shows FRAME_READY = 0, then the characters and
the flag it read are all of the one frame that was published when it began. -/
def Obligations.ConsistentDrainReadsOneFrame : Prop :=
  ∀ (s : State) (caps : List PortBits), caps.length = 13 →
    let hosts := hostWord 0b10 0x04 1 :: ((List.finRange 11).map fun n => hostWord 0b01 (idxTcChar n) 0) ++
      [hostWord 0b01 0x04 0]
    let ws := List.zipWith (fun c h => (⟨0, c, h⟩ : StepWords)) caps hosts
    (s.feed ws).rdata.getLsbD 0 = false →
      (∀ n : Fin 11, (s.feed (ws.take (n.val + 2))).rdata.toNat = (s.outStr[n]).toNat) ∧
      (s.feed ws).rdata.getLsbD 1 = s.outDf

/-- R227: from a state such as a publish leaves (`pos` = 0, nothing pending), a run without reset that
presents at most three INTERVALs publishes in none of its steps, whatever the host does; four can be enough. -/
def Obligations.PublishesAreFourIntervalsApart : Prop :=
  (∀ (s : State) (ws : List StepWords), s.pos = 0 → s.pending = false → ws ≠ [] → (∀ w ∈ ws, w.rst = 0) →
    (ws.filter fun w => w.cap.getLsbD 31).length ≤ 3 → Event.publish ∉ (s.feed ws).events) ∧
  (∀ (s : State) (half full : Tick), s.Calibrated half full → s.pos = 0 → s.pending = false → s.ones = 11 →
    Event.publish ∈ (s.feed (pseudoBits half full [true, false, false])).events)
end

