-- ==== Sys2Proof/Laws/State.lean ====
section
/-! SUPPORT. One lemma for each field and each update of State, and one for each field of the reset state, so that no proof unfolds a record. -/

namespace Sys2Proof.Machine.State

section
variable (s : State) (v : Tick)
@[simp] theorem setOneMin_oneMin : (s.setOneMin v).oneMin = v := rfl
@[simp] theorem setOneMin_oneMax : (s.setOneMin v).oneMax = s.oneMax := rfl
@[simp] theorem setOneMin_zeroMin : (s.setOneMin v).zeroMin = s.zeroMin := rfl
@[simp] theorem setOneMin_zeroMax : (s.setOneMin v).zeroMax = s.zeroMax := rfl
@[simp] theorem setOneMin_edgeSel : (s.setOneMin v).edgeSel = s.edgeSel := rfl
@[simp] theorem setOneMin_pending : (s.setOneMin v).pending = s.pending := rfl
@[simp] theorem setOneMin_ones : (s.setOneMin v).ones = s.ones := rfl
@[simp] theorem setOneMin_pos : (s.setOneMin v).pos = s.pos := rfl
@[simp] theorem setOneMin_syncSeen : (s.setOneMin v).syncSeen = s.syncSeen := rfl
@[simp] theorem setOneMin_buf : (s.setOneMin v).buf = s.buf := rfl
@[simp] theorem setOneMin_frameReady : (s.setOneMin v).frameReady = s.frameReady := rfl
@[simp] theorem setOneMin_outDf : (s.setOneMin v).outDf = s.outDf := rfl
@[simp] theorem setOneMin_outStr : (s.setOneMin v).outStr = s.outStr := rfl
@[simp] theorem setOneMin_capRestart : (s.setOneMin v).capRestart = s.capRestart := rfl
@[simp] theorem setOneMin_rdata : (s.setOneMin v).rdata = s.rdata := rfl
@[simp] theorem setOneMin_events : (s.setOneMin v).events = s.events := rfl
@[simp] theorem setOneMin_inputs : (s.setOneMin v).inputs = s.inputs := rfl
end

section
variable (s : State) (v : Tick)
@[simp] theorem setOneMax_oneMin : (s.setOneMax v).oneMin = s.oneMin := rfl
@[simp] theorem setOneMax_oneMax : (s.setOneMax v).oneMax = v := rfl
@[simp] theorem setOneMax_zeroMin : (s.setOneMax v).zeroMin = s.zeroMin := rfl
@[simp] theorem setOneMax_zeroMax : (s.setOneMax v).zeroMax = s.zeroMax := rfl
@[simp] theorem setOneMax_edgeSel : (s.setOneMax v).edgeSel = s.edgeSel := rfl
@[simp] theorem setOneMax_pending : (s.setOneMax v).pending = s.pending := rfl
@[simp] theorem setOneMax_ones : (s.setOneMax v).ones = s.ones := rfl
@[simp] theorem setOneMax_pos : (s.setOneMax v).pos = s.pos := rfl
@[simp] theorem setOneMax_syncSeen : (s.setOneMax v).syncSeen = s.syncSeen := rfl
@[simp] theorem setOneMax_buf : (s.setOneMax v).buf = s.buf := rfl
@[simp] theorem setOneMax_frameReady : (s.setOneMax v).frameReady = s.frameReady := rfl
@[simp] theorem setOneMax_outDf : (s.setOneMax v).outDf = s.outDf := rfl
@[simp] theorem setOneMax_outStr : (s.setOneMax v).outStr = s.outStr := rfl
@[simp] theorem setOneMax_capRestart : (s.setOneMax v).capRestart = s.capRestart := rfl
@[simp] theorem setOneMax_rdata : (s.setOneMax v).rdata = s.rdata := rfl
@[simp] theorem setOneMax_events : (s.setOneMax v).events = s.events := rfl
@[simp] theorem setOneMax_inputs : (s.setOneMax v).inputs = s.inputs := rfl
end

section
variable (s : State) (v : Tick)
@[simp] theorem setZeroMin_oneMin : (s.setZeroMin v).oneMin = s.oneMin := rfl
@[simp] theorem setZeroMin_oneMax : (s.setZeroMin v).oneMax = s.oneMax := rfl
@[simp] theorem setZeroMin_zeroMin : (s.setZeroMin v).zeroMin = v := rfl
@[simp] theorem setZeroMin_zeroMax : (s.setZeroMin v).zeroMax = s.zeroMax := rfl
@[simp] theorem setZeroMin_edgeSel : (s.setZeroMin v).edgeSel = s.edgeSel := rfl
@[simp] theorem setZeroMin_pending : (s.setZeroMin v).pending = s.pending := rfl
@[simp] theorem setZeroMin_ones : (s.setZeroMin v).ones = s.ones := rfl
@[simp] theorem setZeroMin_pos : (s.setZeroMin v).pos = s.pos := rfl
@[simp] theorem setZeroMin_syncSeen : (s.setZeroMin v).syncSeen = s.syncSeen := rfl
@[simp] theorem setZeroMin_buf : (s.setZeroMin v).buf = s.buf := rfl
@[simp] theorem setZeroMin_frameReady : (s.setZeroMin v).frameReady = s.frameReady := rfl
@[simp] theorem setZeroMin_outDf : (s.setZeroMin v).outDf = s.outDf := rfl
@[simp] theorem setZeroMin_outStr : (s.setZeroMin v).outStr = s.outStr := rfl
@[simp] theorem setZeroMin_capRestart : (s.setZeroMin v).capRestart = s.capRestart := rfl
@[simp] theorem setZeroMin_rdata : (s.setZeroMin v).rdata = s.rdata := rfl
@[simp] theorem setZeroMin_events : (s.setZeroMin v).events = s.events := rfl
@[simp] theorem setZeroMin_inputs : (s.setZeroMin v).inputs = s.inputs := rfl
end

section
variable (s : State) (v : Tick)
@[simp] theorem setZeroMax_oneMin : (s.setZeroMax v).oneMin = s.oneMin := rfl
@[simp] theorem setZeroMax_oneMax : (s.setZeroMax v).oneMax = s.oneMax := rfl
@[simp] theorem setZeroMax_zeroMin : (s.setZeroMax v).zeroMin = s.zeroMin := rfl
@[simp] theorem setZeroMax_zeroMax : (s.setZeroMax v).zeroMax = v := rfl
@[simp] theorem setZeroMax_edgeSel : (s.setZeroMax v).edgeSel = s.edgeSel := rfl
@[simp] theorem setZeroMax_pending : (s.setZeroMax v).pending = s.pending := rfl
@[simp] theorem setZeroMax_ones : (s.setZeroMax v).ones = s.ones := rfl
@[simp] theorem setZeroMax_pos : (s.setZeroMax v).pos = s.pos := rfl
@[simp] theorem setZeroMax_syncSeen : (s.setZeroMax v).syncSeen = s.syncSeen := rfl
@[simp] theorem setZeroMax_buf : (s.setZeroMax v).buf = s.buf := rfl
@[simp] theorem setZeroMax_frameReady : (s.setZeroMax v).frameReady = s.frameReady := rfl
@[simp] theorem setZeroMax_outDf : (s.setZeroMax v).outDf = s.outDf := rfl
@[simp] theorem setZeroMax_outStr : (s.setZeroMax v).outStr = s.outStr := rfl
@[simp] theorem setZeroMax_capRestart : (s.setZeroMax v).capRestart = s.capRestart := rfl
@[simp] theorem setZeroMax_rdata : (s.setZeroMax v).rdata = s.rdata := rfl
@[simp] theorem setZeroMax_events : (s.setZeroMax v).events = s.events := rfl
@[simp] theorem setZeroMax_inputs : (s.setZeroMax v).inputs = s.inputs := rfl
end

section
variable (s : State) (v : Bool)
@[simp] theorem setEdgeSel_oneMin : (s.setEdgeSel v).oneMin = s.oneMin := rfl
@[simp] theorem setEdgeSel_oneMax : (s.setEdgeSel v).oneMax = s.oneMax := rfl
@[simp] theorem setEdgeSel_zeroMin : (s.setEdgeSel v).zeroMin = s.zeroMin := rfl
@[simp] theorem setEdgeSel_zeroMax : (s.setEdgeSel v).zeroMax = s.zeroMax := rfl
@[simp] theorem setEdgeSel_edgeSel : (s.setEdgeSel v).edgeSel = v := rfl
@[simp] theorem setEdgeSel_pending : (s.setEdgeSel v).pending = s.pending := rfl
@[simp] theorem setEdgeSel_ones : (s.setEdgeSel v).ones = s.ones := rfl
@[simp] theorem setEdgeSel_pos : (s.setEdgeSel v).pos = s.pos := rfl
@[simp] theorem setEdgeSel_syncSeen : (s.setEdgeSel v).syncSeen = s.syncSeen := rfl
@[simp] theorem setEdgeSel_buf : (s.setEdgeSel v).buf = s.buf := rfl
@[simp] theorem setEdgeSel_frameReady : (s.setEdgeSel v).frameReady = s.frameReady := rfl
@[simp] theorem setEdgeSel_outDf : (s.setEdgeSel v).outDf = s.outDf := rfl
@[simp] theorem setEdgeSel_outStr : (s.setEdgeSel v).outStr = s.outStr := rfl
@[simp] theorem setEdgeSel_capRestart : (s.setEdgeSel v).capRestart = s.capRestart := rfl
@[simp] theorem setEdgeSel_rdata : (s.setEdgeSel v).rdata = s.rdata := rfl
@[simp] theorem setEdgeSel_events : (s.setEdgeSel v).events = s.events := rfl
@[simp] theorem setEdgeSel_inputs : (s.setEdgeSel v).inputs = s.inputs := rfl
end

section
variable (s : State) (v : Bool)
@[simp] theorem setPending_oneMin : (s.setPending v).oneMin = s.oneMin := rfl
@[simp] theorem setPending_oneMax : (s.setPending v).oneMax = s.oneMax := rfl
@[simp] theorem setPending_zeroMin : (s.setPending v).zeroMin = s.zeroMin := rfl
@[simp] theorem setPending_zeroMax : (s.setPending v).zeroMax = s.zeroMax := rfl
@[simp] theorem setPending_edgeSel : (s.setPending v).edgeSel = s.edgeSel := rfl
@[simp] theorem setPending_pending : (s.setPending v).pending = v := rfl
@[simp] theorem setPending_ones : (s.setPending v).ones = s.ones := rfl
@[simp] theorem setPending_pos : (s.setPending v).pos = s.pos := rfl
@[simp] theorem setPending_syncSeen : (s.setPending v).syncSeen = s.syncSeen := rfl
@[simp] theorem setPending_buf : (s.setPending v).buf = s.buf := rfl
@[simp] theorem setPending_frameReady : (s.setPending v).frameReady = s.frameReady := rfl
@[simp] theorem setPending_outDf : (s.setPending v).outDf = s.outDf := rfl
@[simp] theorem setPending_outStr : (s.setPending v).outStr = s.outStr := rfl
@[simp] theorem setPending_capRestart : (s.setPending v).capRestart = s.capRestart := rfl
@[simp] theorem setPending_rdata : (s.setPending v).rdata = s.rdata := rfl
@[simp] theorem setPending_events : (s.setPending v).events = s.events := rfl
@[simp] theorem setPending_inputs : (s.setPending v).inputs = s.inputs := rfl
end

section
variable (s : State) (v : BitVec 4)
@[simp] theorem setOnes_oneMin : (s.setOnes v).oneMin = s.oneMin := rfl
@[simp] theorem setOnes_oneMax : (s.setOnes v).oneMax = s.oneMax := rfl
@[simp] theorem setOnes_zeroMin : (s.setOnes v).zeroMin = s.zeroMin := rfl
@[simp] theorem setOnes_zeroMax : (s.setOnes v).zeroMax = s.zeroMax := rfl
@[simp] theorem setOnes_edgeSel : (s.setOnes v).edgeSel = s.edgeSel := rfl
@[simp] theorem setOnes_pending : (s.setOnes v).pending = s.pending := rfl
@[simp] theorem setOnes_ones : (s.setOnes v).ones = v := rfl
@[simp] theorem setOnes_pos : (s.setOnes v).pos = s.pos := rfl
@[simp] theorem setOnes_syncSeen : (s.setOnes v).syncSeen = s.syncSeen := rfl
@[simp] theorem setOnes_buf : (s.setOnes v).buf = s.buf := rfl
@[simp] theorem setOnes_frameReady : (s.setOnes v).frameReady = s.frameReady := rfl
@[simp] theorem setOnes_outDf : (s.setOnes v).outDf = s.outDf := rfl
@[simp] theorem setOnes_outStr : (s.setOnes v).outStr = s.outStr := rfl
@[simp] theorem setOnes_capRestart : (s.setOnes v).capRestart = s.capRestart := rfl
@[simp] theorem setOnes_rdata : (s.setOnes v).rdata = s.rdata := rfl
@[simp] theorem setOnes_events : (s.setOnes v).events = s.events := rfl
@[simp] theorem setOnes_inputs : (s.setOnes v).inputs = s.inputs := rfl
end

section
variable (s : State) (v : BitVec 7)
@[simp] theorem setPos_oneMin : (s.setPos v).oneMin = s.oneMin := rfl
@[simp] theorem setPos_oneMax : (s.setPos v).oneMax = s.oneMax := rfl
@[simp] theorem setPos_zeroMin : (s.setPos v).zeroMin = s.zeroMin := rfl
@[simp] theorem setPos_zeroMax : (s.setPos v).zeroMax = s.zeroMax := rfl
@[simp] theorem setPos_edgeSel : (s.setPos v).edgeSel = s.edgeSel := rfl
@[simp] theorem setPos_pending : (s.setPos v).pending = s.pending := rfl
@[simp] theorem setPos_ones : (s.setPos v).ones = s.ones := rfl
@[simp] theorem setPos_pos : (s.setPos v).pos = v := rfl
@[simp] theorem setPos_syncSeen : (s.setPos v).syncSeen = s.syncSeen := rfl
@[simp] theorem setPos_buf : (s.setPos v).buf = s.buf := rfl
@[simp] theorem setPos_frameReady : (s.setPos v).frameReady = s.frameReady := rfl
@[simp] theorem setPos_outDf : (s.setPos v).outDf = s.outDf := rfl
@[simp] theorem setPos_outStr : (s.setPos v).outStr = s.outStr := rfl
@[simp] theorem setPos_capRestart : (s.setPos v).capRestart = s.capRestart := rfl
@[simp] theorem setPos_rdata : (s.setPos v).rdata = s.rdata := rfl
@[simp] theorem setPos_events : (s.setPos v).events = s.events := rfl
@[simp] theorem setPos_inputs : (s.setPos v).inputs = s.inputs := rfl
end

section
variable (s : State) (v : Bool)
@[simp] theorem setSyncSeen_oneMin : (s.setSyncSeen v).oneMin = s.oneMin := rfl
@[simp] theorem setSyncSeen_oneMax : (s.setSyncSeen v).oneMax = s.oneMax := rfl
@[simp] theorem setSyncSeen_zeroMin : (s.setSyncSeen v).zeroMin = s.zeroMin := rfl
@[simp] theorem setSyncSeen_zeroMax : (s.setSyncSeen v).zeroMax = s.zeroMax := rfl
@[simp] theorem setSyncSeen_edgeSel : (s.setSyncSeen v).edgeSel = s.edgeSel := rfl
@[simp] theorem setSyncSeen_pending : (s.setSyncSeen v).pending = s.pending := rfl
@[simp] theorem setSyncSeen_ones : (s.setSyncSeen v).ones = s.ones := rfl
@[simp] theorem setSyncSeen_pos : (s.setSyncSeen v).pos = s.pos := rfl
@[simp] theorem setSyncSeen_syncSeen : (s.setSyncSeen v).syncSeen = v := rfl
@[simp] theorem setSyncSeen_buf : (s.setSyncSeen v).buf = s.buf := rfl
@[simp] theorem setSyncSeen_frameReady : (s.setSyncSeen v).frameReady = s.frameReady := rfl
@[simp] theorem setSyncSeen_outDf : (s.setSyncSeen v).outDf = s.outDf := rfl
@[simp] theorem setSyncSeen_outStr : (s.setSyncSeen v).outStr = s.outStr := rfl
@[simp] theorem setSyncSeen_capRestart : (s.setSyncSeen v).capRestart = s.capRestart := rfl
@[simp] theorem setSyncSeen_rdata : (s.setSyncSeen v).rdata = s.rdata := rfl
@[simp] theorem setSyncSeen_events : (s.setSyncSeen v).events = s.events := rfl
@[simp] theorem setSyncSeen_inputs : (s.setSyncSeen v).inputs = s.inputs := rfl
end

section
variable (s : State) (v : FrameBuf)
@[simp] theorem setBuf_oneMin : (s.setBuf v).oneMin = s.oneMin := rfl
@[simp] theorem setBuf_oneMax : (s.setBuf v).oneMax = s.oneMax := rfl
@[simp] theorem setBuf_zeroMin : (s.setBuf v).zeroMin = s.zeroMin := rfl
@[simp] theorem setBuf_zeroMax : (s.setBuf v).zeroMax = s.zeroMax := rfl
@[simp] theorem setBuf_edgeSel : (s.setBuf v).edgeSel = s.edgeSel := rfl
@[simp] theorem setBuf_pending : (s.setBuf v).pending = s.pending := rfl
@[simp] theorem setBuf_ones : (s.setBuf v).ones = s.ones := rfl
@[simp] theorem setBuf_pos : (s.setBuf v).pos = s.pos := rfl
@[simp] theorem setBuf_syncSeen : (s.setBuf v).syncSeen = s.syncSeen := rfl
@[simp] theorem setBuf_buf : (s.setBuf v).buf = v := rfl
@[simp] theorem setBuf_frameReady : (s.setBuf v).frameReady = s.frameReady := rfl
@[simp] theorem setBuf_outDf : (s.setBuf v).outDf = s.outDf := rfl
@[simp] theorem setBuf_outStr : (s.setBuf v).outStr = s.outStr := rfl
@[simp] theorem setBuf_capRestart : (s.setBuf v).capRestart = s.capRestart := rfl
@[simp] theorem setBuf_rdata : (s.setBuf v).rdata = s.rdata := rfl
@[simp] theorem setBuf_events : (s.setBuf v).events = s.events := rfl
@[simp] theorem setBuf_inputs : (s.setBuf v).inputs = s.inputs := rfl
end

section
variable (s : State) (v : Bool)
@[simp] theorem setFrameReady_oneMin : (s.setFrameReady v).oneMin = s.oneMin := rfl
@[simp] theorem setFrameReady_oneMax : (s.setFrameReady v).oneMax = s.oneMax := rfl
@[simp] theorem setFrameReady_zeroMin : (s.setFrameReady v).zeroMin = s.zeroMin := rfl
@[simp] theorem setFrameReady_zeroMax : (s.setFrameReady v).zeroMax = s.zeroMax := rfl
@[simp] theorem setFrameReady_edgeSel : (s.setFrameReady v).edgeSel = s.edgeSel := rfl
@[simp] theorem setFrameReady_pending : (s.setFrameReady v).pending = s.pending := rfl
@[simp] theorem setFrameReady_ones : (s.setFrameReady v).ones = s.ones := rfl
@[simp] theorem setFrameReady_pos : (s.setFrameReady v).pos = s.pos := rfl
@[simp] theorem setFrameReady_syncSeen : (s.setFrameReady v).syncSeen = s.syncSeen := rfl
@[simp] theorem setFrameReady_buf : (s.setFrameReady v).buf = s.buf := rfl
@[simp] theorem setFrameReady_frameReady : (s.setFrameReady v).frameReady = v := rfl
@[simp] theorem setFrameReady_outDf : (s.setFrameReady v).outDf = s.outDf := rfl
@[simp] theorem setFrameReady_outStr : (s.setFrameReady v).outStr = s.outStr := rfl
@[simp] theorem setFrameReady_capRestart : (s.setFrameReady v).capRestart = s.capRestart := rfl
@[simp] theorem setFrameReady_rdata : (s.setFrameReady v).rdata = s.rdata := rfl
@[simp] theorem setFrameReady_events : (s.setFrameReady v).events = s.events := rfl
@[simp] theorem setFrameReady_inputs : (s.setFrameReady v).inputs = s.inputs := rfl
end

section
variable (s : State) (v : Bool)
@[simp] theorem setOutDf_oneMin : (s.setOutDf v).oneMin = s.oneMin := rfl
@[simp] theorem setOutDf_oneMax : (s.setOutDf v).oneMax = s.oneMax := rfl
@[simp] theorem setOutDf_zeroMin : (s.setOutDf v).zeroMin = s.zeroMin := rfl
@[simp] theorem setOutDf_zeroMax : (s.setOutDf v).zeroMax = s.zeroMax := rfl
@[simp] theorem setOutDf_edgeSel : (s.setOutDf v).edgeSel = s.edgeSel := rfl
@[simp] theorem setOutDf_pending : (s.setOutDf v).pending = s.pending := rfl
@[simp] theorem setOutDf_ones : (s.setOutDf v).ones = s.ones := rfl
@[simp] theorem setOutDf_pos : (s.setOutDf v).pos = s.pos := rfl
@[simp] theorem setOutDf_syncSeen : (s.setOutDf v).syncSeen = s.syncSeen := rfl
@[simp] theorem setOutDf_buf : (s.setOutDf v).buf = s.buf := rfl
@[simp] theorem setOutDf_frameReady : (s.setOutDf v).frameReady = s.frameReady := rfl
@[simp] theorem setOutDf_outDf : (s.setOutDf v).outDf = v := rfl
@[simp] theorem setOutDf_outStr : (s.setOutDf v).outStr = s.outStr := rfl
@[simp] theorem setOutDf_capRestart : (s.setOutDf v).capRestart = s.capRestart := rfl
@[simp] theorem setOutDf_rdata : (s.setOutDf v).rdata = s.rdata := rfl
@[simp] theorem setOutDf_events : (s.setOutDf v).events = s.events := rfl
@[simp] theorem setOutDf_inputs : (s.setOutDf v).inputs = s.inputs := rfl
end

section
variable (s : State) (v : OutStr)
@[simp] theorem setOutStr_oneMin : (s.setOutStr v).oneMin = s.oneMin := rfl
@[simp] theorem setOutStr_oneMax : (s.setOutStr v).oneMax = s.oneMax := rfl
@[simp] theorem setOutStr_zeroMin : (s.setOutStr v).zeroMin = s.zeroMin := rfl
@[simp] theorem setOutStr_zeroMax : (s.setOutStr v).zeroMax = s.zeroMax := rfl
@[simp] theorem setOutStr_edgeSel : (s.setOutStr v).edgeSel = s.edgeSel := rfl
@[simp] theorem setOutStr_pending : (s.setOutStr v).pending = s.pending := rfl
@[simp] theorem setOutStr_ones : (s.setOutStr v).ones = s.ones := rfl
@[simp] theorem setOutStr_pos : (s.setOutStr v).pos = s.pos := rfl
@[simp] theorem setOutStr_syncSeen : (s.setOutStr v).syncSeen = s.syncSeen := rfl
@[simp] theorem setOutStr_buf : (s.setOutStr v).buf = s.buf := rfl
@[simp] theorem setOutStr_frameReady : (s.setOutStr v).frameReady = s.frameReady := rfl
@[simp] theorem setOutStr_outDf : (s.setOutStr v).outDf = s.outDf := rfl
@[simp] theorem setOutStr_outStr : (s.setOutStr v).outStr = v := rfl
@[simp] theorem setOutStr_capRestart : (s.setOutStr v).capRestart = s.capRestart := rfl
@[simp] theorem setOutStr_rdata : (s.setOutStr v).rdata = s.rdata := rfl
@[simp] theorem setOutStr_events : (s.setOutStr v).events = s.events := rfl
@[simp] theorem setOutStr_inputs : (s.setOutStr v).inputs = s.inputs := rfl
end

section
variable (s : State) (v : Bool)
@[simp] theorem setCapRestart_oneMin : (s.setCapRestart v).oneMin = s.oneMin := rfl
@[simp] theorem setCapRestart_oneMax : (s.setCapRestart v).oneMax = s.oneMax := rfl
@[simp] theorem setCapRestart_zeroMin : (s.setCapRestart v).zeroMin = s.zeroMin := rfl
@[simp] theorem setCapRestart_zeroMax : (s.setCapRestart v).zeroMax = s.zeroMax := rfl
@[simp] theorem setCapRestart_edgeSel : (s.setCapRestart v).edgeSel = s.edgeSel := rfl
@[simp] theorem setCapRestart_pending : (s.setCapRestart v).pending = s.pending := rfl
@[simp] theorem setCapRestart_ones : (s.setCapRestart v).ones = s.ones := rfl
@[simp] theorem setCapRestart_pos : (s.setCapRestart v).pos = s.pos := rfl
@[simp] theorem setCapRestart_syncSeen : (s.setCapRestart v).syncSeen = s.syncSeen := rfl
@[simp] theorem setCapRestart_buf : (s.setCapRestart v).buf = s.buf := rfl
@[simp] theorem setCapRestart_frameReady : (s.setCapRestart v).frameReady = s.frameReady := rfl
@[simp] theorem setCapRestart_outDf : (s.setCapRestart v).outDf = s.outDf := rfl
@[simp] theorem setCapRestart_outStr : (s.setCapRestart v).outStr = s.outStr := rfl
@[simp] theorem setCapRestart_capRestart : (s.setCapRestart v).capRestart = v := rfl
@[simp] theorem setCapRestart_rdata : (s.setCapRestart v).rdata = s.rdata := rfl
@[simp] theorem setCapRestart_events : (s.setCapRestart v).events = s.events := rfl
@[simp] theorem setCapRestart_inputs : (s.setCapRestart v).inputs = s.inputs := rfl
end

section
variable (s : State) (v : RegWord)
@[simp] theorem setRdata_oneMin : (s.setRdata v).oneMin = s.oneMin := rfl
@[simp] theorem setRdata_oneMax : (s.setRdata v).oneMax = s.oneMax := rfl
@[simp] theorem setRdata_zeroMin : (s.setRdata v).zeroMin = s.zeroMin := rfl
@[simp] theorem setRdata_zeroMax : (s.setRdata v).zeroMax = s.zeroMax := rfl
@[simp] theorem setRdata_edgeSel : (s.setRdata v).edgeSel = s.edgeSel := rfl
@[simp] theorem setRdata_pending : (s.setRdata v).pending = s.pending := rfl
@[simp] theorem setRdata_ones : (s.setRdata v).ones = s.ones := rfl
@[simp] theorem setRdata_pos : (s.setRdata v).pos = s.pos := rfl
@[simp] theorem setRdata_syncSeen : (s.setRdata v).syncSeen = s.syncSeen := rfl
@[simp] theorem setRdata_buf : (s.setRdata v).buf = s.buf := rfl
@[simp] theorem setRdata_frameReady : (s.setRdata v).frameReady = s.frameReady := rfl
@[simp] theorem setRdata_outDf : (s.setRdata v).outDf = s.outDf := rfl
@[simp] theorem setRdata_outStr : (s.setRdata v).outStr = s.outStr := rfl
@[simp] theorem setRdata_capRestart : (s.setRdata v).capRestart = s.capRestart := rfl
@[simp] theorem setRdata_rdata : (s.setRdata v).rdata = v := rfl
@[simp] theorem setRdata_events : (s.setRdata v).events = s.events := rfl
@[simp] theorem setRdata_inputs : (s.setRdata v).inputs = s.inputs := rfl
end

section
variable (s : State) (v : List Event)
@[simp] theorem setEvents_oneMin : (s.setEvents v).oneMin = s.oneMin := rfl
@[simp] theorem setEvents_oneMax : (s.setEvents v).oneMax = s.oneMax := rfl
@[simp] theorem setEvents_zeroMin : (s.setEvents v).zeroMin = s.zeroMin := rfl
@[simp] theorem setEvents_zeroMax : (s.setEvents v).zeroMax = s.zeroMax := rfl
@[simp] theorem setEvents_edgeSel : (s.setEvents v).edgeSel = s.edgeSel := rfl
@[simp] theorem setEvents_pending : (s.setEvents v).pending = s.pending := rfl
@[simp] theorem setEvents_ones : (s.setEvents v).ones = s.ones := rfl
@[simp] theorem setEvents_pos : (s.setEvents v).pos = s.pos := rfl
@[simp] theorem setEvents_syncSeen : (s.setEvents v).syncSeen = s.syncSeen := rfl
@[simp] theorem setEvents_buf : (s.setEvents v).buf = s.buf := rfl
@[simp] theorem setEvents_frameReady : (s.setEvents v).frameReady = s.frameReady := rfl
@[simp] theorem setEvents_outDf : (s.setEvents v).outDf = s.outDf := rfl
@[simp] theorem setEvents_outStr : (s.setEvents v).outStr = s.outStr := rfl
@[simp] theorem setEvents_capRestart : (s.setEvents v).capRestart = s.capRestart := rfl
@[simp] theorem setEvents_rdata : (s.setEvents v).rdata = s.rdata := rfl
@[simp] theorem setEvents_events : (s.setEvents v).events = v := rfl
@[simp] theorem setEvents_inputs : (s.setEvents v).inputs = s.inputs := rfl
end

section
variable (s : State) (v : List StepWords)
@[simp] theorem setInputs_oneMin : (s.setInputs v).oneMin = s.oneMin := rfl
@[simp] theorem setInputs_oneMax : (s.setInputs v).oneMax = s.oneMax := rfl
@[simp] theorem setInputs_zeroMin : (s.setInputs v).zeroMin = s.zeroMin := rfl
@[simp] theorem setInputs_zeroMax : (s.setInputs v).zeroMax = s.zeroMax := rfl
@[simp] theorem setInputs_edgeSel : (s.setInputs v).edgeSel = s.edgeSel := rfl
@[simp] theorem setInputs_pending : (s.setInputs v).pending = s.pending := rfl
@[simp] theorem setInputs_ones : (s.setInputs v).ones = s.ones := rfl
@[simp] theorem setInputs_pos : (s.setInputs v).pos = s.pos := rfl
@[simp] theorem setInputs_syncSeen : (s.setInputs v).syncSeen = s.syncSeen := rfl
@[simp] theorem setInputs_buf : (s.setInputs v).buf = s.buf := rfl
@[simp] theorem setInputs_frameReady : (s.setInputs v).frameReady = s.frameReady := rfl
@[simp] theorem setInputs_outDf : (s.setInputs v).outDf = s.outDf := rfl
@[simp] theorem setInputs_outStr : (s.setInputs v).outStr = s.outStr := rfl
@[simp] theorem setInputs_capRestart : (s.setInputs v).capRestart = s.capRestart := rfl
@[simp] theorem setInputs_rdata : (s.setInputs v).rdata = s.rdata := rfl
@[simp] theorem setInputs_events : (s.setInputs v).events = s.events := rfl
@[simp] theorem setInputs_inputs : (s.setInputs v).inputs = v := rfl
end

/-! ## The reset state (10_state.md R44) -/

@[simp] theorem reset_oneMin : State.reset.oneMin = 0xFFFF := rfl
@[simp] theorem reset_oneMax : State.reset.oneMax = 0x0000 := rfl
@[simp] theorem reset_zeroMin : State.reset.zeroMin = 0xFFFF := rfl
@[simp] theorem reset_zeroMax : State.reset.zeroMax = 0x0000 := rfl
@[simp] theorem reset_edgeSel : State.reset.edgeSel = false := rfl
@[simp] theorem reset_pending : State.reset.pending = false := rfl
@[simp] theorem reset_ones : State.reset.ones = 0 := rfl
@[simp] theorem reset_pos : State.reset.pos = 0 := rfl
@[simp] theorem reset_syncSeen : State.reset.syncSeen = false := rfl
@[simp] theorem reset_frameReady : State.reset.frameReady = false := rfl
@[simp] theorem reset_outDf : State.reset.outDf = false := rfl
@[simp] theorem reset_capRestart : State.reset.capRestart = false := rfl
@[simp] theorem reset_rdata : State.reset.rdata = 0 := rfl
@[simp] theorem reset_events : State.reset.events = [] := rfl
@[simp] theorem reset_inputs : State.reset.inputs = [] := rfl

end Sys2Proof.Machine.State
end

