-- ==== Sys2Proof/Laws/Ops.lean ====
section
/-! SUPPORT. For each shared operation, one lemma that says everything it can do; the proofs cite these and do not unfold the operations. -/

namespace Sys2Proof.Machine

/-! ## Operands -/

theorem inWindow_eq_true_iff (lo hi n : Tick) :
    inWindow lo hi n = true ↔ lo.toNat ≤ n.toNat ∧ n.toNat ≤ hi.toNat := by
  simp [inWindow, BitVec.ule]

theorem strobeBit_strobeOf (b : Bool) : strobeBit (strobeOf b) = some b := by cases b <;> decide

theorem strobeBit_strobeNone : strobeBit strobeNone = none := by decide

theorem tcCharOf_idxTcChar (n : Fin 11) : tcCharOf (idxTcChar n) = some n := by
  revert n; decide

/-- A read above STATUS: a character or 0. -/
theorem readReg_of_ge (s : State) (idx : RegIdx) (h : 5 ≤ idx.toNat) : s.readReg idx =
    match tcCharOf idx with
    | some n => s.outStr[n].setWidth 16
    | none => 0 := by
  have ne : ∀ k : RegIdx, k.toNat < 5 → idx ≠ k := fun k hk e => by subst e; omega
  unfold State.readReg
  exact (if_neg (ne _ (by decide))).trans ((if_neg (ne _ (by decide))).trans ((if_neg (ne _ (by decide))).trans
    ((if_neg (ne _ (by decide))).trans (if_neg (ne _ (by decide))))))

/-! ## The fields of a step's start and of its end (43_host_interface.md R176) -/

section
variable (s : State)
@[simp] theorem beginStep_oneMin : (s.beginStep).oneMin = s.oneMin := rfl
@[simp] theorem beginStep_oneMax : (s.beginStep).oneMax = s.oneMax := rfl
@[simp] theorem beginStep_zeroMin : (s.beginStep).zeroMin = s.zeroMin := rfl
@[simp] theorem beginStep_zeroMax : (s.beginStep).zeroMax = s.zeroMax := rfl
@[simp] theorem beginStep_edgeSel : (s.beginStep).edgeSel = s.edgeSel := rfl
@[simp] theorem beginStep_pending : (s.beginStep).pending = s.pending := rfl
@[simp] theorem beginStep_ones : (s.beginStep).ones = s.ones := rfl
@[simp] theorem beginStep_pos : (s.beginStep).pos = s.pos := rfl
@[simp] theorem beginStep_syncSeen : (s.beginStep).syncSeen = s.syncSeen := rfl
@[simp] theorem beginStep_buf : (s.beginStep).buf = s.buf := rfl
@[simp] theorem beginStep_frameReady : (s.beginStep).frameReady = s.frameReady := rfl
@[simp] theorem beginStep_outDf : (s.beginStep).outDf = s.outDf := rfl
@[simp] theorem beginStep_outStr : (s.beginStep).outStr = s.outStr := rfl
@[simp] theorem beginStep_capRestart : (s.beginStep).capRestart = s.capRestart := rfl
@[simp] theorem beginStep_rdata : (s.beginStep).rdata = s.rdata := rfl
@[simp] theorem beginStep_events : (s.beginStep).events = [] := rfl
@[simp] theorem beginStep_inputs : (s.beginStep).inputs = s.inputs.tail := rfl
end

section
variable (c h : State)
@[simp] theorem joinSides_oneMin : (State.joinSides c h).oneMin = h.oneMin := rfl
@[simp] theorem joinSides_oneMax : (State.joinSides c h).oneMax = h.oneMax := rfl
@[simp] theorem joinSides_zeroMin : (State.joinSides c h).zeroMin = h.zeroMin := rfl
@[simp] theorem joinSides_zeroMax : (State.joinSides c h).zeroMax = h.zeroMax := rfl
@[simp] theorem joinSides_edgeSel : (State.joinSides c h).edgeSel = c.edgeSel := rfl
@[simp] theorem joinSides_pending : (State.joinSides c h).pending = c.pending := rfl
@[simp] theorem joinSides_ones : (State.joinSides c h).ones = c.ones := rfl
@[simp] theorem joinSides_pos : (State.joinSides c h).pos = c.pos := rfl
@[simp] theorem joinSides_syncSeen : (State.joinSides c h).syncSeen = c.syncSeen := rfl
@[simp] theorem joinSides_buf : (State.joinSides c h).buf = c.buf := rfl
@[simp] theorem joinSides_frameReady : (State.joinSides c h).frameReady = (c.frameReady || h.frameReady) := rfl
@[simp] theorem joinSides_outDf : (State.joinSides c h).outDf = c.outDf := rfl
@[simp] theorem joinSides_outStr : (State.joinSides c h).outStr = c.outStr := rfl
@[simp] theorem joinSides_capRestart : (State.joinSides c h).capRestart = c.capRestart := rfl
@[simp] theorem joinSides_rdata : (State.joinSides c h).rdata = h.rdata := rfl
@[simp] theorem joinSides_events : (State.joinSides c h).events = c.events := rfl
@[simp] theorem joinSides_inputs : (State.joinSides c h).inputs = c.inputs := rfl
end

/-! ## Recoveries (60_exceptions.md R202, R203) -/

theorem recover_timing_eq (s : State) : s.recover .signalTimingFault =
    { s with pos := 0, pending := false, events := s.events ++ [.fault .signalTimingFault] } := rfl

theorem recover_alignment_eq (s : State) : s.recover .alignmentFault =
    { s with pos := 0, pending := false, events := s.events ++ [.fault .alignmentFault] } := rfl

theorem recover_boundary_eq (s : State) : s.recover .frameBoundaryMismatch =
    { s with events := s.events ++ [.fault .frameBoundaryMismatch] } := rfl

/-! ## PUBLISH (42_bcd_extractor.md R150) -/

theorem publish_eq (s : State) :
    s.publish = { s with outStr := formatFrame s.buf, outDf := dropFrame s.buf } := rfl

theorem record_eq (s : State) (e : Event) : s.record e = { s with events := s.events ++ [e] } := rfl

/-! ## PUSH_BIT (41_frame_assembler.md R120) -/

/-- The run counter after a bit that is no sync detection (R121). -/
def onesAfter (s : State) (b : Bool) : BitVec 4 := if b then s.ones + 1 else 0

/-- The bit is a sync detection (R122). -/
def Detects (s : State) (b : Bool) : Prop := b = true ∧ s.ones + 1 = 12

theorem detects_iff (s : State) (b : Bool) : Detects s b ↔ b = true ∧ s.ones.toNat = 11 := by
  have h : s.ones + 1 = 12 ↔ s.ones.toNat = 11 := by
    constructor
    · intro h; bv_omega
    · intro h; bv_omega
  exact and_congr_right fun _ => h

/-- The buffer after a bit that is no sync detection (R123). -/
def bufAfter (s : State) (b : Bool) : FrameBuf := if s.pos ≤ 63 then shiftBuf b s.buf else s.buf

/-- A sync detection. -/
theorem pushBit_of_detects (s : State) (b : Bool) (h : Detects s b) : s.pushBit b =
    { s with ones := 0, syncSeen := true, pos := 78, events := s.events ++ [.sync] } := by
  obtain ⟨rfl, h⟩ := h
  simp only [State.pushBit, State.pushBitAt, State.trackSync, Config.syncRun, h, if_true]
  rfl

/-- A bit that is no sync detection, up to its completion. -/
theorem pushBit_of_not_detects (s : State) (b : Bool) (h : ¬ Detects s b) : s.pushBit b =
    (((s.setOnes (onesAfter s b)).setBuf (bufAfter s b)).setPos (s.pos + 1)).complete := by
  have ht : s.trackSync Config.syncForcePos b = s.setOnes (onesAfter s b) := by
    cases b
    · rfl
    · have h' : ¬ s.ones + 1 = Config.syncRun := fun e => h ⟨rfl, e⟩
      simp only [State.trackSync, if_neg h', onesAfter, if_true]
  simp only [State.pushBit, State.pushBitAt, ht, State.shiftIn, State.setOnes_pos, Config.lastDataPos, bufAfter]
  split <;> rfl

theorem complete_of_counts (s : State) (h : s.pos ≠ 80) : s.complete = s := if_neg h

theorem complete_of_publishes (s : State) (h : s.pos = 80) (hs : s.syncSeen = true) : s.complete =
    ((((s.setPos 0).setSyncSeen false).setFrameReady true).publish).record .publish :=
  (if_pos h).trans (if_pos hs)

theorem complete_of_discards (s : State) (h : s.pos = 80) (hs : s.syncSeen = false) : s.complete =
    (s.setPos 0).recover .frameBoundaryMismatch :=
  (if_pos h).trans (if_neg (by simp [hs]))

theorem bufAfter_of_completes (s : State) (b : Bool) (hp : s.pos + 1 = 80) : bufAfter s b = s.buf :=
  if_neg (by bv_omega)

/-- A bit that neither detects sync nor completes a window. -/
theorem pushBit_of_counts (s : State) (b : Bool) (h : ¬ Detects s b) (hp : s.pos + 1 ≠ 80) : s.pushBit b =
    { s with ones := onesAfter s b, buf := bufAfter s b, pos := s.pos + 1 } := by
  rw [pushBit_of_not_detects s b h, complete_of_counts _ hp]; rfl

/-- A completion with sync (R125): the frame is published. -/
theorem pushBit_of_publishes (s : State) (b : Bool) (h : ¬ Detects s b) (hp : s.pos + 1 = 80)
    (hs : s.syncSeen = true) : s.pushBit b =
    { s with
      ones := onesAfter s b, pos := 0, syncSeen := false, frameReady := true,
      outStr := formatFrame s.buf, outDf := dropFrame s.buf, events := s.events ++ [.publish] } := by
  rw [pushBit_of_not_detects s b h, bufAfter_of_completes s b hp]
  rw [complete_of_publishes (((s.setOnes (onesAfter s b)).setBuf s.buf).setPos (s.pos + 1)) hp hs, publish_eq, record_eq]
  rfl

/-- A completion without sync (R125, R203): the window is discarded. -/
theorem pushBit_of_discards (s : State) (b : Bool) (h : ¬ Detects s b) (hp : s.pos + 1 = 80)
    (hs : s.syncSeen = false) : s.pushBit b =
    { s with ones := onesAfter s b, pos := 0, events := s.events ++ [.fault .frameBoundaryMismatch] } := by
  rw [pushBit_of_not_detects s b h, bufAfter_of_completes s b hp]
  exact complete_of_discards (((s.setOnes (onesAfter s b)).setBuf s.buf).setPos (s.pos + 1)) hp hs

/-- Everything PUSH_BIT can do. -/
theorem pushBit_cases (s : State) (b : Bool) :
    (Detects s b ∧ s.pushBit b =
      { s with ones := 0, syncSeen := true, pos := 78, events := s.events ++ [.sync] }) ∨
    (¬ Detects s b ∧ s.pos + 1 ≠ 80 ∧ s.pushBit b =
      { s with ones := onesAfter s b, buf := bufAfter s b, pos := s.pos + 1 }) ∨
    (¬ Detects s b ∧ s.pos + 1 = 80 ∧ s.syncSeen = true ∧ s.pushBit b =
      { s with
        ones := onesAfter s b, pos := 0, syncSeen := false, frameReady := true,
        outStr := formatFrame s.buf, outDf := dropFrame s.buf, events := s.events ++ [.publish] }) ∨
    (¬ Detects s b ∧ s.pos + 1 = 80 ∧ s.syncSeen = false ∧ s.pushBit b =
      { s with ones := onesAfter s b, pos := 0, events := s.events ++ [.fault .frameBoundaryMismatch] }) := by
  by_cases hd : Detects s b
  · exact .inl ⟨hd, pushBit_of_detects s b hd⟩
  by_cases hp : s.pos + 1 = 80
  · by_cases hs : s.syncSeen = true
    · exact .inr (.inr (.inl ⟨hd, hp, hs, pushBit_of_publishes s b hd hp hs⟩))
    · have hs' := Bool.eq_false_iff.mpr hs
      exact .inr (.inr (.inr ⟨hd, hp, hs', pushBit_of_discards s b hd hp hs'⟩))
  · exact .inr (.inl ⟨hd, hp, pushBit_of_counts s b hd hp⟩)

/-! ## INTERVAL (40_demodulator.md R101) -/

/-- Everything INTERVAL can do. -/
theorem interval_cases (s : State) (n : Tick) :
    (s.classify n = .half ∧ s.pending = false ∧ s.interval n =
      { s with edgeSel := !s.edgeSel, capRestart := true, pending := true }) ∨
    (s.classify n = .half ∧ s.pending = true ∧ s.interval n =
      State.pushBit { s with edgeSel := !s.edgeSel, capRestart := true, pending := false } true) ∨
    (s.classify n = .full ∧ s.pending = false ∧ s.interval n =
      State.pushBit { s with edgeSel := !s.edgeSel, capRestart := true } false) ∨
    (s.classify n = .full ∧ s.pending = true ∧ s.interval n =
      { s with
        edgeSel := !s.edgeSel, capRestart := true, pos := 0, pending := false,
        events := s.events ++ [.fault .alignmentFault] }) ∨
    (s.classify n = .invalid ∧ s.interval n =
      { s with
        edgeSel := !s.edgeSel, capRestart := true, pos := 0, pending := false,
        events := s.events ++ [.fault .signalTimingFault] }) := by
  have e : s.interval n = (s.demodulate n).1.takeStrobe (s.demodulate n).2 := rfl
  unfold State.demodulate at e
  cases hc : s.classify n <;> rw [hc] at e <;> by_cases hp : s.pending = true
  · exact .inr (.inl ⟨rfl, hp, by rw [e]; simp only [if_pos hp]; rfl⟩)
  · exact .inl ⟨rfl, Bool.eq_false_iff.mpr hp, by rw [e]; simp only [if_neg hp]; rfl⟩
  · exact .inr (.inr (.inr (.inl ⟨rfl, hp, by rw [e]; simp only [if_pos hp]; rfl⟩)))
  · exact .inr (.inr (.inl ⟨rfl, Bool.eq_false_iff.mpr hp, by rw [e]; simp only [if_neg hp]; rfl⟩))
  · exact .inr (.inr (.inr (.inr ⟨rfl, by rw [e]; simp only [recover_timing_eq]; rfl⟩)))
  · exact .inr (.inr (.inr (.inr ⟨rfl, by rw [e]; simp only [recover_timing_eq]; rfl⟩)))

/-! ## Host writes (43_host_interface.md R172) -/

/-- Everything a host write can do. -/
theorem writeReg_cases (s : State) (idx : RegIdx) (v : RegWord) :
    (idx = 0x00 ∧ s.writeReg idx v = { s with oneMin := v }) ∨
    (idx = 0x01 ∧ s.writeReg idx v = { s with oneMax := v }) ∨
    (idx = 0x02 ∧ s.writeReg idx v = { s with zeroMin := v }) ∨
    (idx = 0x03 ∧ s.writeReg idx v = { s with zeroMax := v }) ∨
    (4 ≤ idx.toNat ∧ s.writeReg idx v = { s with frameReady := s.frameReady && !clearsReady idx v }) := by
  have e : s.writeReg idx v =
      if idx = 0x00 then s.setOneMin v else if idx = 0x01 then s.setOneMax v
      else if idx = 0x02 then s.setZeroMin v else if idx = 0x03 then s.setZeroMax v
      else s.setFrameReady (readyAfterWrite s.frameReady idx v) := rfl
  by_cases h0 : idx = 0x00
  · exact .inl ⟨h0, by rw [e, if_pos h0]; rfl⟩
  by_cases h1 : idx = 0x01
  · exact .inr (.inl ⟨h1, by rw [e, if_neg h0, if_pos h1]; rfl⟩)
  by_cases h2 : idx = 0x02
  · exact .inr (.inr (.inl ⟨h2, by rw [e, if_neg h0, if_neg h1, if_pos h2]; rfl⟩))
  by_cases h3 : idx = 0x03
  · exact .inr (.inr (.inr (.inl ⟨h3, by rw [e, if_neg h0, if_neg h1, if_neg h2, if_pos h3]; rfl⟩)))
  · exact .inr (.inr (.inr (.inr ⟨by bv_omega, by rw [e, if_neg h0, if_neg h1, if_neg h2, if_neg h3]; rfl⟩)))

end Sys2Proof.Machine
end

