-- ==== Sys2Proof/Laws/Words.lean ====
section
/-! SUPPORT. The fields of the words the encoder writes, and the bits of the frame buffer's value. -/

namespace Sys2Proof

/-! ## The fields of an encoded word (30_encoding.md R70, R71) -/

theorem capWord_valid (a : BitVec 1) (n : Tick) : (capWord a n).extractLsb' 31 1 = a := by
  apply BitVec.eq_of_getLsbD_eq; intro i hi
  have : i = 0 := by omega
  subst this; simp [capWord]

theorem capWord_n (a : BitVec 1) (n : Tick) : (capWord a n).extractLsb' 0 16 = n := by
  apply BitVec.eq_of_getLsbD_eq; intro i hi
  interval_cases i <;> simp [capWord]

theorem hostWord_op (op : BitVec 2) (idx : RegIdx) (v : RegWord) : (hostWord op idx v).extractLsb' 30 2 = op := by
  apply BitVec.eq_of_getLsbD_eq; intro i hi
  interval_cases i <;> simp [hostWord]

theorem hostWord_idx (op : BitVec 2) (idx : RegIdx) (v : RegWord) : (hostWord op idx v).extractLsb' 16 8 = idx := by
  apply BitVec.eq_of_getLsbD_eq; intro i hi
  interval_cases i <;> simp [hostWord]

theorem hostWord_v (op : BitVec 2) (idx : RegIdx) (v : RegWord) : (hostWord op idx v).extractLsb' 0 16 = v := by
  apply BitVec.eq_of_getLsbD_eq; intro i hi
  interval_cases i <;> simp [hostWord]

namespace Machine

/-! ## The frame buffer (20_memory.md R50) -/

theorem shiftByte_getLsbD (c : Bool) (b : Byte) (j : Nat) (hj : j < 8) :
    (shiftByte c b).getLsbD j = if j = 7 then c else b.getLsbD (j + 1) := by
  show BitVec.getLsbD (w := 1 + 7) _ j = _
  unfold shiftByte
  rw [BitVec.getLsbD_append]
  interval_cases j <;> simp

theorem bufValue_getLsbD (b : FrameBuf) (i : Nat) (hi : i < 64) :
    (bufValue b).getLsbD i = b[i / 8].getLsbD (i % 8) := by
  show BitVec.getLsbD (w := 8 + 8 + 8 + 8 + 8 + 8 + 8 + 8) _ i = _
  unfold bufValue
  simp only [BitVec.getLsbD_append]
  interval_cases i <;> rfl

end Machine

end Sys2Proof
end

