-- ==== Sys2Proof/Laws/PerInstr.lean ====
section
/-! SUPPORT. Statements for every operation, one lemma for each constructor. MatchesTableRow: the encoder writes a word of the operation's own format that carries its row's pattern under its row's mask in spec/opcode_table.json. -/

namespace Sys2Proof.Laws.MatchesTableRow

/-- The columns `match` and `mask` of the operation's row, and its format. -/
def rowOf : Instr → Port × Nat × Nat
  | .capIdle => (.cap, 0x00000000, 0x80000000)
  | .interval _ => (.cap, 0x80000000, 0x80000000)
  | .pushBit _ => (.int, 0b10, 0b10)
  | .hostIdle => (.host, 0x00000000, 0xC0000000)
  | .regRead _ => (.host, 0x40000000, 0xC0000000)
  | .regWrite _ _ => (.host, 0x80000000, 0xC0000000)
  | .hostRsvd => (.host, 0xC0000000, 0xC0000000)
  | .reset => (.rst, 0b1, 0b1)

/-- The format and the bits of a word. -/
def bitsOf : PortWord → Port × Nat
  | .cap w => (.cap, w.toNat)
  | .host w => (.host, w.toNat)
  | .int w => (.int, w.toNat)
  | .rst w => (.rst, w.toNat)

def Statement (i : Instr) : Prop :=
  (bitsOf (encode i)).1 = (rowOf i).1 ∧ (rowOf i).1 = i.port ∧
    (bitsOf (encode i)).2 &&& (rowOf i).2.2 = (rowOf i).2.1

theorem cap_valid (a : BitVec 1) (n : Tick) : capWord a n &&& 0x80000000 = a.setWidth 32 <<< 31 := by
  apply BitVec.eq_of_getLsbD_eq
  intro i hi
  interval_cases i <;> simp [capWord]

theorem host_op (op : BitVec 2) (idx : RegIdx) (v : RegWord) :
    hostWord op idx v &&& 0xC0000000 = op.setWidth 32 <<< 30 := by
  apply BitVec.eq_of_getLsbD_eq
  intro i hi
  interval_cases i <;> simp [hostWord]

theorem capIdle : Statement .capIdle := ⟨rfl, rfl, rfl⟩

theorem interval (n : Tick) : Statement (.interval n) :=
  ⟨rfl, rfl, congrArg BitVec.toNat (cap_valid 1 n)⟩

theorem pushBit (b : Bool) : Statement (.pushBit b) := by
  cases b <;> exact ⟨rfl, rfl, rfl⟩

theorem hostIdle : Statement .hostIdle := ⟨rfl, rfl, rfl⟩

theorem regRead (idx : RegIdx) : Statement (.regRead idx) :=
  ⟨rfl, rfl, congrArg BitVec.toNat (host_op 0b01 idx 0)⟩

theorem regWrite (idx : RegIdx) (v : RegWord) : Statement (.regWrite idx v) :=
  ⟨rfl, rfl, congrArg BitVec.toNat (host_op 0b10 idx v)⟩

theorem hostRsvd : Statement .hostRsvd := ⟨rfl, rfl, rfl⟩

theorem reset : Statement .reset := ⟨rfl, rfl, rfl⟩

end Sys2Proof.Laws.MatchesTableRow
end

