-- ==== Sys2Proof/Laws/Step.lean ====
section
/-! SUPPORT. exec and step as total functions, and runs as folds over the words presented: the lemmas a proof about a run rests on. -/

namespace Sys2Proof.Machine

/-! ## The architectural state -/

section
variable (s : State)
@[simp] theorem arch_oneMin : (s.arch).oneMin = s.oneMin := rfl
@[simp] theorem arch_oneMax : (s.arch).oneMax = s.oneMax := rfl
@[simp] theorem arch_zeroMin : (s.arch).zeroMin = s.zeroMin := rfl
@[simp] theorem arch_zeroMax : (s.arch).zeroMax = s.zeroMax := rfl
@[simp] theorem arch_edgeSel : (s.arch).edgeSel = s.edgeSel := rfl
@[simp] theorem arch_pending : (s.arch).pending = s.pending := rfl
@[simp] theorem arch_ones : (s.arch).ones = s.ones := rfl
@[simp] theorem arch_pos : (s.arch).pos = s.pos := rfl
@[simp] theorem arch_syncSeen : (s.arch).syncSeen = s.syncSeen := rfl
@[simp] theorem arch_buf : (s.arch).buf = s.buf := rfl
@[simp] theorem arch_frameReady : (s.arch).frameReady = s.frameReady := rfl
@[simp] theorem arch_outDf : (s.arch).outDf = s.outDf := rfl
@[simp] theorem arch_outStr : (s.arch).outStr = s.outStr := rfl
@[simp] theorem arch_capRestart : (s.arch).capRestart = false := rfl
@[simp] theorem arch_rdata : (s.arch).rdata = 0 := rfl
@[simp] theorem arch_events : (s.arch).events = [] := rfl
@[simp] theorem arch_inputs : (s.arch).inputs = [] := rfl
end

/-! ## exec -/

/-- The state an operation leaves. -/
def execNext : Instr → State → State
  | .capIdle, s => s.setCapRestart false
  | .interval n, s => s.interval n
  | .pushBit b, s => s.pushBit b
  | .hostIdle, s => s.setRdata 0
  | .regRead idx, s => s.setRdata (s.readReg idx)
  | .regWrite idx v, s => (s.writeReg idx v).setRdata 0
  | .hostRsvd, s => s.setRdata 0
  | .reset, s => State.reset.setInputs s.inputs

theorem exec_eq_next (i : Instr) (s : State) : exec i s = .next (execNext i s) := by cases i <;> rfl

theorem exec_next_iff (i : Instr) (s t : State) : exec i s = .next t ↔ t = execNext i s := by
  rw [exec_eq_next]; exact ⟨fun h => (Host.Outcome.next.inj h).symm, fun h => h ▸ rfl⟩

/-! ## step -/

/-- The state a step leaves, from what its words decode to and the state at its start. -/
def joinedNext (s0 : State) : StepOps → State
  | .reset => execNext .reset s0
  | .ports cap host => State.joinSides (execNext cap (s0.setFrameReady false)) (execNext host s0)

/-- The state a step leaves. -/
def stepNext (s : State) : State := joinedNext s.beginStep (decodeStep s.nextWords)

theorem step_eq_next (s : State) : step s = .next (stepNext s) := by
  unfold step stepNext
  cases decodeStep s.nextWords with
  | reset => exact exec_eq_next _ _
  | ports cap host => simp only [exec_eq_next]; rfl

theorem step_next_iff (s t : State) : step s = .next t ↔ t = stepNext s := by
  rw [step_eq_next]; exact ⟨fun h => (Host.Outcome.next.inj h).symm, fun h => h ▸ rfl⟩

/-- The words of a step are RST = 1, or decode to a capture and a host operation. -/
theorem decodeStep_cases (w : StepWords) :
    (w.rst = 1 ∧ decodeStep w = .reset) ∨
    (w.rst = 0 ∧ decodeStep w = .ports (decodeCap w.cap) (decodeHost w.host)) := by
  by_cases h : w.rst = 1#1
  · exact .inl ⟨h, if_pos h⟩
  · exact .inr ⟨by bv_omega, if_neg h⟩

/-- A capture word carries CAP_IDLE or INTERVAL. -/
theorem decodeCap_cases (w : PortBits) :
    decodeCap w = .capIdle ∨ decodeCap w = .interval (w.extractLsb' 0 16) := by
  unfold decodeCap; split
  · exact .inr rfl
  · exact .inl rfl

/-- A host word carries one of the four host operations. -/
theorem decodeHost_cases (w : PortBits) :
    decodeHost w = .hostIdle ∨ decodeHost w = .regRead (w.extractLsb' 16 8) ∨
    decodeHost w = .regWrite (w.extractLsb' 16 8) (w.extractLsb' 0 16) ∨ decodeHost w = .hostRsvd := by
  unfold decodeHost; dsimp only
  by_cases h0 : w.extractLsb' 30 2 = 0b00#2
  · exact .inl (if_pos h0)
  by_cases h1 : w.extractLsb' 30 2 = 0b01#2
  · exact .inr (.inl (by rw [if_neg h0, if_pos h1]))
  by_cases h2 : w.extractLsb' 30 2 = 0b10#2
  · exact .inr (.inr (.inl (by rw [if_neg h0, if_neg h1, if_pos h2])))
  · exact .inr (.inr (.inr (by rw [if_neg h0, if_neg h1, if_neg h2])))

/-! ## The words to come are not read by the operations -/

theorem pushBit_setInputs (s : State) (b : Bool) (ws : List StepWords) :
    (s.setInputs ws).pushBit b = (s.pushBit b).setInputs ws := by
  have hd : Detects (s.setInputs ws) b ↔ Detects s b := Iff.rfl
  obtain ⟨h, e⟩ | ⟨h, hp, e⟩ | ⟨h, hp, hs, e⟩ | ⟨h, hp, hs, e⟩ := pushBit_cases s b <;> rw [e]
  · rw [pushBit_of_detects _ _ (hd.mpr h)]; rfl
  · rw [pushBit_of_counts _ _ (fun x => h (hd.mp x)) hp]; rfl
  · rw [pushBit_of_publishes _ _ (fun x => h (hd.mp x)) hp hs]; rfl
  · rw [pushBit_of_discards _ _ (fun x => h (hd.mp x)) hp hs]; rfl

theorem interval_setInputs (s : State) (n : Tick) (ws : List StepWords) :
    (s.setInputs ws).interval n = (s.interval n).setInputs ws := by
  have key : ∀ (u : State) (w : Strobe), (u.setInputs ws).takeStrobe w = (u.takeStrobe w).setInputs ws := by
    intro u w; unfold State.takeStrobe
    cases strobeBit w with
    | none => rfl
    | some b => exact pushBit_setInputs u b ws
  have hd : (s.setInputs ws).demodulate n = ((s.demodulate n).1.setInputs ws, (s.demodulate n).2) := by
    have hc : (s.setInputs ws).classify n = s.classify n := rfl
    unfold State.demodulate; rw [hc]
    cases s.classify n <;> cases hp : s.pending <;> simp [hp] <;> rfl
  unfold State.interval
  rw [hd]; exact key _ _

theorem execNext_setInputs (i : Instr) (s : State) (ws : List StepWords) :
    execNext i (s.setInputs ws) = (execNext i s).setInputs ws := by
  cases i with
  | interval n => exact interval_setInputs s n ws
  | pushBit b => exact pushBit_setInputs s b ws
  | regWrite idx v => simp only [execNext, State.writeReg]; split_ifs <;> rfl
  | _ => rfl

/-! ## Runs -/

/-- One step in which the ports carry the given words, the words to come left out. -/
def State.stepWith (s : State) (w : StepWords) : State :=
  joinedNext ((s.setInputs []).setEvents []) (decodeStep w)

theorem stepNext_cons (s : State) (w : StepWords) (ws : List StepWords) :
    stepNext (s.setInputs (w :: ws)) = (s.stepWith w).setInputs ws := by
  have e : (s.setInputs (w :: ws)).beginStep = ((s.setInputs []).setEvents []).setInputs ws := rfl
  unfold stepNext State.stepWith
  rw [e]
  change joinedNext _ (decodeStep w) = _
  cases decodeStep w with
  | reset => rfl
  | ports cap host =>
    have e' : (((s.setInputs []).setEvents []).setInputs ws).setFrameReady false =
      (((s.setInputs []).setEvents []).setFrameReady false).setInputs ws := rfl
    simp only [joinedNext, e', execNext_setInputs]
    rfl

theorem feed_nil (s : State) : s.feed [] = s.setInputs [] := rfl

theorem feed_cons (s : State) (w : StepWords) (ws : List StepWords) :
    s.feed (w :: ws) = (s.stepWith w).feed ws := by
  unfold State.feed
  rw [List.length_cons, State.after, step_eq_next, stepNext_cons]

theorem feed_append (s : State) (ws us : List StepWords) : s.feed (ws ++ us) = (s.feed ws).feed us := by
  induction ws generalizing s with
  | nil => rfl
  | cons w ws ih => rw [List.cons_append, feed_cons, ih, feed_cons]

theorem feed_concat (s : State) (ws : List StepWords) (w : StepWords) :
    s.feed (ws ++ [w]) = (((s.feed ws).stepWith w).setInputs []) := by
  rw [feed_append, feed_cons, feed_nil]

end Sys2Proof.Machine
end

