-- ==== Sys2Proof/Laws/Runs.lean ====
section
/-! SUPPORT. What a run leaves of the architectural state: it depends on the architectural state it starts from and on nothing else, and a line of the transaction notation is one operation. -/

namespace Sys2Proof.Machine

/-! ## States of one architectural state -/

/-- The fields of 10_state.md R20 make the architectural state. -/
theorem arch_eq_of_fields {s t : State} (a1 : s.oneMin = t.oneMin) (a2 : s.oneMax = t.oneMax)
    (a3 : s.zeroMin = t.zeroMin) (a4 : s.zeroMax = t.zeroMax) (a5 : s.edgeSel = t.edgeSel)
    (a6 : s.pending = t.pending) (a7 : s.ones = t.ones) (a8 : s.pos = t.pos) (a9 : s.syncSeen = t.syncSeen)
    (a10 : s.buf = t.buf) (a11 : s.frameReady = t.frameReady) (a12 : s.outDf = t.outDf)
    (a13 : s.outStr = t.outStr) : s.arch = t.arch := by
  apply State.ext <;> simp [*]

/-- A state with other outputs, events and words to come. -/
def State.withRest (s : State) (c : Bool) (r : RegWord) (es : List Event) (ws : List StepWords) : State :=
  { s with capRestart := c, rdata := r, events := es, inputs := ws }

theorem withRest_arch (s : State) (c r es ws) : (s.withRest c r es ws).arch = s.arch := rfl

/-- Two states of one architectural state differ in their outputs, events and words to come only. -/
theorem eq_withRest {s t : State} (h : s.arch = t.arch) :
    t = s.withRest t.capRestart t.rdata t.events t.inputs := by
  obtain ⟨⟩ := s
  obtain ⟨⟩ := t
  simp only [State.arch, State.setCapRestart, State.setRdata, State.setEvents, State.setInputs, State.mk.injEq] at h
  simp only [State.withRest, State.mk.injEq]
  exact ⟨h.1.symm, h.2.1.symm, h.2.2.1.symm, h.2.2.2.1.symm, h.2.2.2.2.1.symm, h.2.2.2.2.2.1.symm,
    h.2.2.2.2.2.2.1.symm, h.2.2.2.2.2.2.2.1.symm, h.2.2.2.2.2.2.2.2.1.symm, h.2.2.2.2.2.2.2.2.2.1.symm,
    h.2.2.2.2.2.2.2.2.2.2.1.symm, h.2.2.2.2.2.2.2.2.2.2.2.1.symm, h.2.2.2.2.2.2.2.2.2.2.2.2.1.symm,
    trivial, trivial, trivial, trivial⟩

/-! ## The operations see the architectural state only -/

theorem pushBit_arch {s t : State} (h : s.arch = t.arch) (b : Bool) : (s.pushBit b).arch = (t.pushBit b).arch := by
  rw [eq_withRest h]
  generalize t.capRestart = c
  generalize t.rdata = r
  generalize t.events = es
  generalize t.inputs = ws
  have hd : Detects (s.withRest c r es ws) b ↔ Detects s b := Iff.rfl
  obtain ⟨h, e⟩ | ⟨h, hp, e⟩ | ⟨h, hp, hs, e⟩ | ⟨h, hp, hs, e⟩ := pushBit_cases s b <;> rw [e]
  · rw [pushBit_of_detects _ _ (hd.mpr h)]; rfl
  · rw [pushBit_of_counts _ _ (fun x => h (hd.mp x)) hp]; rfl
  · rw [pushBit_of_publishes _ _ (fun x => h (hd.mp x)) hp hs]; rfl
  · rw [pushBit_of_discards _ _ (fun x => h (hd.mp x)) hp hs]; rfl

theorem interval_arch {s t : State} (h : s.arch = t.arch) (n : Tick) :
    (s.interval n).arch = (t.interval n).arch := by
  rw [eq_withRest h]
  generalize t.capRestart = c
  generalize t.rdata = r
  generalize t.events = es
  generalize t.inputs = ws
  have hc : (s.withRest c r es ws).classify n = s.classify n := rfl
  have hp : (s.withRest c r es ws).pending = s.pending := rfl
  obtain ⟨a, b, e⟩ | ⟨a, b, e⟩ | ⟨a, b, e⟩ | ⟨a, b, e⟩ | ⟨a, e⟩ := interval_cases s n <;>
  obtain ⟨a', b', e'⟩ | ⟨a', b', e'⟩ | ⟨a', b', e'⟩ | ⟨a', b', e'⟩ | ⟨a', e'⟩ := interval_cases (s.withRest c r es ws) n <;>
   first
   | (exfalso; rw [hc, a] at a'; cases a'; done)
   | (exfalso; rw [hp, b] at b'; cases b'; done)
   | skip
  all_goals rw [e, e']
  · rfl
  · apply pushBit_arch; rfl
  · apply pushBit_arch; rfl
  · rfl
  · rfl

theorem execNext_arch {s t : State} (h : s.arch = t.arch) (i : Instr) : (execNext i s).arch = (execNext i t).arch := by
  cases i
  case interval n => exact interval_arch h n
  case pushBit b => exact pushBit_arch h b
  case regWrite idx v =>
    rw [eq_withRest h]
    simp only [execNext, State.writeReg]
    split_ifs <;> rfl
  all_goals (rw [eq_withRest h]; rfl)

theorem joinSides_arch (c h : State) : (State.joinSides c h).arch = State.joinSides c.arch h.arch := by
  apply State.ext <;> simp

theorem setFrameReady_arch (s : State) (v : Bool) : (s.setFrameReady v).arch = s.arch.setFrameReady v := by
  apply State.ext <;> simp

theorem setInputs_arch (s : State) (ws : List StepWords) : (s.setInputs ws).arch = s.arch := rfl

theorem setEvents_arch (s : State) (es : List Event) : (s.setEvents es).arch = s.arch := rfl

theorem joinedNext_arch {s t : State} (h : s.arch = t.arch) (p : StepOps) :
    (joinedNext s p).arch = (joinedNext t p).arch := by
  cases p with
  | reset => rfl
  | ports c hh =>
    have hf : (s.setFrameReady false).arch = (t.setFrameReady false).arch := by
      rw [setFrameReady_arch, h, setFrameReady_arch]
    simp only [joinedNext, joinSides_arch]
    rw [execNext_arch h hh, execNext_arch hf c]

theorem stepWith_arch {s t : State} (h : s.arch = t.arch) (w : StepWords) :
    (s.stepWith w).arch = (t.stepWith w).arch :=
  joinedNext_arch (by rw [setEvents_arch, setInputs_arch, h, setEvents_arch, setInputs_arch]) _

/-- PUSH_BIT passes CAP_RESTART and RDATA through. -/
theorem pushBit_withRest (s : State) (b : Bool) (c : Bool) (r : RegWord) :
    (s.withRest c r s.events s.inputs).pushBit b = (s.pushBit b).withRest c r (s.pushBit b).events s.inputs := by
  have hd : Detects (s.withRest c r s.events s.inputs) b ↔ Detects s b := Iff.rfl
  obtain ⟨h, e⟩ | ⟨h, hp, e⟩ | ⟨h, hp, hs, e⟩ | ⟨h, hp, hs, e⟩ := pushBit_cases s b <;> rw [e]
  · rw [pushBit_of_detects _ _ (hd.mpr h)]; rfl
  · rw [pushBit_of_counts _ _ (fun x => h (hd.mp x)) hp]; rfl
  · rw [pushBit_of_publishes _ _ (fun x => h (hd.mp x)) hp hs]; rfl
  · rw [pushBit_of_discards _ _ (fun x => h (hd.mp x)) hp hs]; rfl

/-- INTERVAL sets CAP_RESTART and passes RDATA through. -/
theorem interval_withRest (s : State) (n : Tick) (c : Bool) (r : RegWord) :
    (s.withRest c r s.events s.inputs).interval n =
      (s.interval n).withRest true r (s.interval n).events s.inputs := by
  have hc : (s.withRest c r s.events s.inputs).classify n = s.classify n := rfl
  have hp : (s.withRest c r s.events s.inputs).pending = s.pending := rfl
  obtain ⟨a, b, e⟩ | ⟨a, b, e⟩ | ⟨a, b, e⟩ | ⟨a, b, e⟩ | ⟨a, e⟩ := interval_cases s n <;>
  obtain ⟨a', b', e'⟩ | ⟨a', b', e'⟩ | ⟨a', b', e'⟩ | ⟨a', b', e'⟩ | ⟨a', e'⟩ :=
    interval_cases (s.withRest c r s.events s.inputs) n <;>
   first
   | (exfalso; rw [hc, a] at a'; cases a'; done)
   | (exfalso; rw [hp, b] at b'; cases b'; done)
   | skip
  all_goals rw [e, e']
  · rfl
  · exact pushBit_withRest { s with edgeSel := !s.edgeSel, capRestart := true, pending := false } true true r
  · exact pushBit_withRest { s with edgeSel := !s.edgeSel, capRestart := true } false true r
  · rfl
  · rfl

/-- A capture operation reads neither CAP_RESTART nor RDATA, and passes RDATA through. -/
theorem execNext_cap_withRest (s : State) (w : PortBits) (c : Bool) (r : RegWord) :
    execNext (decodeCap w) (s.withRest c r s.events s.inputs) =
      (execNext (decodeCap w) s).withRest (execNext (decodeCap w) s).capRestart r
        (execNext (decodeCap w) s).events s.inputs := by
  obtain e | e := decodeCap_cases w <;> rw [e]
  · rfl
  · have h : ∀ n : Tick, (s.interval n).capRestart = true := by
      intro n
      have hb : ∀ (u : State) (b : Bool), (u.pushBit b).capRestart = u.capRestart := by
        intro u b
        obtain ⟨h, e⟩ | ⟨h, hp, e⟩ | ⟨h, hp, hs, e⟩ | ⟨h, hp, hs, e⟩ := pushBit_cases u b <;> rw [e]
      obtain ⟨a, b, e⟩ | ⟨a, b, e⟩ | ⟨a, b, e⟩ | ⟨a, b, e⟩ | ⟨a, e⟩ := interval_cases s n <;> rw [e]
      · exact hb _ true
      · exact hb _ false
    simp only [execNext]
    rw [h, interval_withRest]

/-- A host operation reads neither CAP_RESTART nor RDATA, and passes CAP_RESTART through. -/
theorem execNext_host_withRest (s : State) (w : PortBits) (c : Bool) (r : RegWord) :
    execNext (decodeHost w) (s.withRest c r s.events s.inputs) =
      (execNext (decodeHost w) s).withRest c (execNext (decodeHost w) s).rdata s.events s.inputs := by
  obtain e | e | e | e := decodeHost_cases w <;> rw [e]
  · rfl
  · rfl
  · simp only [execNext, State.writeReg]; split_ifs <;> rfl
  · rfl

/-- A step depends on nothing but the architectural state and the words: its outputs and events too. -/
theorem stepWith_eq_of_arch {s t : State} (h : s.arch = t.arch) (w : StepWords) : s.stepWith w = t.stepWith w := by
  rw [eq_withRest h]
  unfold State.stepWith
  generalize t.capRestart = c
  generalize t.rdata = r
  have e : (((s.withRest c r t.events t.inputs).setInputs []).setEvents []) =
      ((s.setInputs []).setEvents []).withRest c r [] [] := rfl
  have ee : ((s.setInputs []).setEvents []).events = [] := rfl
  have ei : ((s.setInputs []).setEvents []).inputs = [] := rfl
  rw [e]
  generalize (s.setInputs []).setEvents [] = u at ee ei ⊢
  obtain ⟨-, e⟩ | ⟨-, e⟩ := decodeStep_cases w <;> rw [e]
  · simp only [joinedNext, execNext, ei]; rfl
  · have e0 : (u.withRest c r [] []).setFrameReady false =
        (u.setFrameReady false).withRest c r (u.setFrameReady false).events (u.setFrameReady false).inputs := by
      simp only [State.setFrameReady_events, State.setFrameReady_inputs, ee, ei]; rfl
    have e1 : u.withRest c r [] [] = u.withRest c r u.events u.inputs := by rw [ee, ei]
    have hi : (execNext (decodeCap w.cap) (u.setFrameReady false)).inputs = (u.setFrameReady false).inputs := by
      have := congrArg State.inputs (execNext_setInputs (decodeCap w.cap) (u.setFrameReady false) (u.setFrameReady false).inputs)
      exact this
    simp only [joinedNext]
    rw [e0, e1, execNext_cap_withRest, execNext_host_withRest, ← hi]
    rfl

theorem feed_arch {s t : State} (h : s.arch = t.arch) (ws : List StepWords) :
    (s.feed ws).arch = (t.feed ws).arch := by
  induction ws generalizing s t with
  | nil => exact h
  | cons w ws ih => rw [feed_cons, feed_cons]; exact ih (stepWith_arch h w)

/-! ## Lines of the transaction notation (30_encoding.md R81) -/

theorem decodeStep_lineIdle : decodeStep lineIdle = .ports .capIdle .hostIdle := rfl

theorem stepWith_lineIdle_arch (s : State) : (s.stepWith lineIdle).arch = s.arch := by
  unfold State.stepWith; rw [decodeStep_lineIdle]
  apply arch_eq_of_fields <;> simp [joinedNext, execNext]

theorem decodeCap_capWord (n : Tick) : decodeCap (capWord 1 n) = .interval n := by
  have h : (capWord 1 n).extractLsb' 31 1 = 1#1 := capWord_valid 1 n
  unfold decodeCap
  rw [if_pos h, capWord_n]

theorem decodeStep_lineInterval (n : Tick) : decodeStep (lineInterval n) = .ports (.interval n) .hostIdle := by
  have h : (lineInterval n).rst ≠ 1#1 := show (0 : BitVec 1) ≠ 1#1 by decide
  have hh : decodeHost (hostWord 0b00 0 0) = .hostIdle := by decide
  unfold decodeStep
  rw [if_neg h]
  exact congrArg₂ StepOps.ports (decodeCap_capWord n) hh

/-- PUSH_BIT on a copy whose `frame_ready` is 0, which the step then joins with the old flag, is PUSH_BIT. -/
theorem pushBit_clear_join (s : State) (b : Bool) :
    ((s.setFrameReady false).pushBit b).setFrameReady (((s.setFrameReady false).pushBit b).frameReady || s.frameReady) =
      s.pushBit b := by
  have hd : Detects (s.setFrameReady false) b ↔ Detects s b := Iff.rfl
  obtain ⟨h, e⟩ | ⟨h, hp, e⟩ | ⟨h, hp, hs, e⟩ | ⟨h, hp, hs, e⟩ := pushBit_cases s b <;> rw [e]
  · rw [pushBit_of_detects _ _ (hd.mpr h)]; rfl
  · rw [pushBit_of_counts _ _ (fun x => h (hd.mp x)) hp]; rfl
  · rw [pushBit_of_publishes _ _ (fun x => h (hd.mp x)) hp hs]; rfl
  · rw [pushBit_of_discards _ _ (fun x => h (hd.mp x)) hp hs]; rfl

/-- The same for INTERVAL. -/
theorem interval_clear_join (s : State) (n : Tick) :
    ((s.setFrameReady false).interval n).setFrameReady (((s.setFrameReady false).interval n).frameReady || s.frameReady) =
      s.interval n := by
  have hc : (s.setFrameReady false).classify n = s.classify n := rfl
  have hp : (s.setFrameReady false).pending = s.pending := rfl
  obtain ⟨a, b, e⟩ | ⟨a, b, e⟩ | ⟨a, b, e⟩ | ⟨a, b, e⟩ | ⟨a, e⟩ := interval_cases s n <;>
  obtain ⟨a', b', e'⟩ | ⟨a', b', e'⟩ | ⟨a', b', e'⟩ | ⟨a', b', e'⟩ | ⟨a', e'⟩ := interval_cases (s.setFrameReady false) n <;>
   first
   | (exfalso; rw [hc, a] at a'; cases a'; done)
   | (exfalso; rw [hp, b] at b'; cases b'; done)
   | skip
  all_goals rw [e, e']
  · rfl
  · exact pushBit_clear_join { s with edgeSel := !s.edgeSel, capRestart := true, pending := false } true
  · exact pushBit_clear_join { s with edgeSel := !s.edgeSel, capRestart := true } false
  · rfl
  · rfl

/-- `interval` leaves the fields the host side writes. -/
theorem interval_host_fields (s : State) (n : Tick) :
    (s.interval n).oneMin = s.oneMin ∧ (s.interval n).oneMax = s.oneMax ∧
    (s.interval n).zeroMin = s.zeroMin ∧ (s.interval n).zeroMax = s.zeroMax := by
  have key : ∀ (u : State) (b : Bool), (u.pushBit b).oneMin = u.oneMin ∧ (u.pushBit b).oneMax = u.oneMax ∧
      (u.pushBit b).zeroMin = u.zeroMin ∧ (u.pushBit b).zeroMax = u.zeroMax := by
    intro u b
    obtain ⟨h, e⟩ | ⟨h, hp, e⟩ | ⟨h, hp, hs, e⟩ | ⟨h, hp, hs, e⟩ := pushBit_cases u b <;> rw [e] <;> exact ⟨rfl, rfl, rfl, rfl⟩
  obtain ⟨a, b, e⟩ | ⟨a, b, e⟩ | ⟨a, b, e⟩ | ⟨a, b, e⟩ | ⟨a, e⟩ := interval_cases s n <;> rw [e]
  · exact ⟨rfl, rfl, rfl, rfl⟩
  · exact key _ true
  · exact key _ false
  · exact ⟨rfl, rfl, rfl, rfl⟩
  · exact ⟨rfl, rfl, rfl, rfl⟩

/-- A step that presents an INTERVAL and no host operation is INTERVAL, with RDATA = 0. -/
theorem stepWith_lineInterval (s : State) (n : Tick) :
    s.stepWith (lineInterval n) = (((s.setInputs []).setEvents []).interval n).setRdata 0 := by
  unfold State.stepWith
  rw [decodeStep_lineInterval]
  generalize (s.setInputs []).setEvents [] = u
  rw [← interval_clear_join u n]
  obtain ⟨h1, h2, h3, h4⟩ := interval_host_fields (u.setFrameReady false) n
  apply State.ext <;> simp [joinedNext, execNext, h1, h2, h3, h4]

theorem feed_singleton (s : State) (w : StepWords) : s.feed [w] = (s.stepWith w).setInputs [] := by
  rw [feed_cons, feed_nil]

theorem pseudoBits_cons (half full : Tick) (b : Bool) (bs : List Bool) :
    pseudoBits half full (b :: bs) = pseudoBit half full b ++ pseudoBits half full bs := rfl

theorem pseudoBits_append (half full : Tick) (bs cs : List Bool) :
    pseudoBits half full (bs ++ cs) = pseudoBits half full bs ++ pseudoBits half full cs := by
  induction bs with
  | nil => rfl
  | cons b bs ih => rw [List.cons_append, pseudoBits_cons, ih, pseudoBits_cons, List.append_assoc]

/-! ## What PUSH_BIT leaves alone, and what it does not read -/

/-- PUSH_BIT leaves the fields the demodulator reads, and the outputs and words to come. -/
theorem pushBit_keeps (s : State) (b : Bool) :
    (s.pushBit b).pending = s.pending ∧ (s.pushBit b).edgeSel = s.edgeSel ∧
    (s.pushBit b).capRestart = s.capRestart ∧ (s.pushBit b).rdata = s.rdata ∧ (s.pushBit b).inputs = s.inputs ∧
    ∀ n, (s.pushBit b).classify n = s.classify n := by
  obtain ⟨h, e⟩ | ⟨h, hp, e⟩ | ⟨h, hp, hs, e⟩ | ⟨h, hp, hs, e⟩ := pushBit_cases s b <;> rw [e] <;>
    exact ⟨rfl, rfl, rfl, rfl, rfl, fun _ => rfl⟩

theorem pushBit_setRdata (s : State) (b : Bool) (r : RegWord) :
    (s.setRdata r).pushBit b = (s.pushBit b).setRdata r := by
  have hd : Detects (s.setRdata r) b ↔ Detects s b := Iff.rfl
  obtain ⟨h, e⟩ | ⟨h, hp, e⟩ | ⟨h, hp, hs, e⟩ | ⟨h, hp, hs, e⟩ := pushBit_cases s b <;> rw [e]
  · rw [pushBit_of_detects _ _ (hd.mpr h)]; rfl
  · rw [pushBit_of_counts _ _ (fun x => h (hd.mp x)) hp]; rfl
  · rw [pushBit_of_publishes _ _ (fun x => h (hd.mp x)) hp hs]; rfl
  · rw [pushBit_of_discards _ _ (fun x => h (hd.mp x)) hp hs]; rfl

theorem pushBit_setEdgeSel (s : State) (e b : Bool) :
    (s.setEdgeSel e).pushBit b = (s.pushBit b).setEdgeSel e := by
  have hd : Detects (s.setEdgeSel e) b ↔ Detects s b := Iff.rfl
  obtain ⟨h, e⟩ | ⟨h, hp, e⟩ | ⟨h, hp, hs, e⟩ | ⟨h, hp, hs, e⟩ := pushBit_cases s b <;> rw [e]
  · rw [pushBit_of_detects _ _ (hd.mpr h)]; rfl
  · rw [pushBit_of_counts _ _ (fun x => h (hd.mp x)) hp]; rfl
  · rw [pushBit_of_publishes _ _ (fun x => h (hd.mp x)) hp hs]; rfl
  · rw [pushBit_of_discards _ _ (fun x => h (hd.mp x)) hp hs]; rfl

theorem pushBit_setPending (s : State) (e b : Bool) :
    (s.setPending e).pushBit b = (s.pushBit b).setPending e := by
  have hd : Detects (s.setPending e) b ↔ Detects s b := Iff.rfl
  obtain ⟨h, e⟩ | ⟨h, hp, e⟩ | ⟨h, hp, hs, e⟩ | ⟨h, hp, hs, e⟩ := pushBit_cases s b <;> rw [e]
  · rw [pushBit_of_detects _ _ (hd.mpr h)]; rfl
  · rw [pushBit_of_counts _ _ (fun x => h (hd.mp x)) hp]; rfl
  · rw [pushBit_of_publishes _ _ (fun x => h (hd.mp x)) hp hs]; rfl
  · rw [pushBit_of_discards _ _ (fun x => h (hd.mp x)) hp hs]; rfl

theorem pushBits_setEdgeSel (s : State) (e : Bool) (bs : List Bool) :
    (s.setEdgeSel e).pushBits bs = (s.pushBits bs).setEdgeSel e := by
  induction bs generalizing s with
  | nil => rfl
  | cons b bs ih => simp only [State.pushBits]; rw [pushBit_setEdgeSel, ih]

theorem pushBits_arch {s t : State} (h : s.arch = t.arch) (bs : List Bool) :
    (s.pushBits bs).arch = (t.pushBits bs).arch := by
  induction bs generalizing s t with
  | nil => exact h
  | cons b bs ih => exact ih (pushBit_arch h b)

theorem pushBits_append (s : State) (bs cs : List Bool) : s.pushBits (bs ++ cs) = (s.pushBits bs).pushBits cs := by
  induction bs generalizing s with
  | nil => rfl
  | cons b bs ih => exact ih (s.pushBit b)

theorem setEdgeSel_arch (s : State) (e : Bool) : (s.setEdgeSel e).arch = s.arch.setEdgeSel e := by
  apply State.ext <;> simp

theorem setPending_arch (s : State) (e : Bool) : (s.setPending e).arch = s.arch.setPending e := by
  apply State.ext <;> simp

/-! ## Intervals of a calibrated signal (40_demodulator.md R105) -/

/-- The state inside a step that presents an INTERVAL, with `edge_sel` and `pending` as the demodulator leaves
them, before any bit is pushed. -/
def State.demodulated (s : State) (e p : Bool) : State :=
  { s with edgeSel := e, pending := p, capRestart := true, rdata := 0, events := [], inputs := [] }

theorem demodulated_arch (s : State) (e p : Bool) :
    (s.demodulated e p).arch = ((s.setEdgeSel e).setPending p).arch := rfl

theorem demodulated_classify (s : State) (e p : Bool) (n : Tick) :
    (s.demodulated e p).classify n = s.classify n := rfl

/-- The first half-cell of a pair. -/
theorem stepWith_first_half (s : State) (n : Tick) (hc : s.classify n = .half) (hp : s.pending = false) :
    s.stepWith (lineInterval n) = s.demodulated (!s.edgeSel) true := by
  have ec : ((s.setInputs []).setEvents []).classify n = s.classify n := rfl
  have ep : ((s.setInputs []).setEvents []).pending = s.pending := rfl
  rw [stepWith_lineInterval]
  obtain ⟨a, b, e⟩ | ⟨a, b, e⟩ | ⟨a, b, e⟩ | ⟨a, b, e⟩ | ⟨a, e⟩ := interval_cases ((s.setInputs []).setEvents []) n
  · rw [e]; rfl
  · rw [ep, hp] at b; cases b
  all_goals (rw [ec, hc] at a; cases a)

/-- The second half-cell of a pair: a 1-bit. -/
theorem stepWith_second_half (s : State) (n : Tick) (hc : s.classify n = .half) (hp : s.pending = true) :
    s.stepWith (lineInterval n) = (s.demodulated (!s.edgeSel) false).pushBit true := by
  have ec : ((s.setInputs []).setEvents []).classify n = s.classify n := rfl
  have ep : ((s.setInputs []).setEvents []).pending = s.pending := rfl
  rw [stepWith_lineInterval]
  obtain ⟨a, b, e⟩ | ⟨a, b, e⟩ | ⟨a, b, e⟩ | ⟨a, b, e⟩ | ⟨a, e⟩ := interval_cases ((s.setInputs []).setEvents []) n
  · rw [ep, hp] at b; cases b
  · rw [e, ← pushBit_setRdata]; rfl
  all_goals (rw [ec, hc] at a; cases a)

/-- A full cell with nothing pending: a 0-bit. -/
theorem stepWith_full (s : State) (n : Tick) (hc : s.classify n = .full) (hp : s.pending = false) :
    s.stepWith (lineInterval n) = (s.demodulated (!s.edgeSel) false).pushBit false := by
  have ec : ((s.setInputs []).setEvents []).classify n = s.classify n := rfl
  have ep : ((s.setInputs []).setEvents []).pending = s.pending := rfl
  rw [stepWith_lineInterval]
  obtain ⟨a, b, e⟩ | ⟨a, b, e⟩ | ⟨a, b, e⟩ | ⟨a, b, e⟩ | ⟨a, e⟩ := interval_cases ((s.setInputs []).setEvents []) n
  · rw [ec, hc] at a; cases a
  · rw [ec, hc] at a; cases a
  · rw [e, ← pushBit_setRdata]; congr 1; unfold State.demodulated; rw [← hp]; rfl
  · rw [ep, hp] at b; cases b
  · rw [ec, hc] at a; cases a

/-- A full cell with a half-bit pending: an alignment fault. -/
theorem stepWith_misaligned (s : State) (n : Tick) (hc : s.classify n = .full) (hp : s.pending = true) :
    s.stepWith (lineInterval n) =
      { s.demodulated (!s.edgeSel) false with pos := 0, events := [.fault .alignmentFault] } := by
  have ec : ((s.setInputs []).setEvents []).classify n = s.classify n := rfl
  have ep : ((s.setInputs []).setEvents []).pending = s.pending := rfl
  rw [stepWith_lineInterval]
  obtain ⟨a, b, e⟩ | ⟨a, b, e⟩ | ⟨a, b, e⟩ | ⟨a, b, e⟩ | ⟨a, e⟩ := interval_cases ((s.setInputs []).setEvents []) n
  · rw [ec, hc] at a; cases a
  · rw [ec, hc] at a; cases a
  · rw [ep, hp] at b; cases b
  · rw [e]; rfl
  · rw [ec, hc] at a; cases a

theorem calibrated_pushBit {s : State} {half full : Tick} (hc : s.Calibrated half full) (e p b : Bool) :
    ((s.demodulated e p).pushBit b).Calibrated half full := by
  have h := (pushBit_keeps (s.demodulated e p) b).2.2.2.2.2
  exact ⟨(h half).trans hc.1, (h full).trans hc.2⟩

/-- The intervals of one bit, with nothing pending, are PUSH_BIT of it. -/
theorem feed_pseudoBit (s : State) (half full : Tick) (b : Bool) (hc : s.Calibrated half full)
    (hp : s.pending = false) :
    s.feed (pseudoBit half full b) = (s.demodulated (s.edgeSel ^^ !b) false).pushBit b := by
  have z : ∀ t : State, t.inputs = [] → t.feed [] = t := fun t h => by rw [feed_nil, ← h]; rfl
  cases b
  · have e : pseudoBit half full false = [lineInterval full] := rfl
    rw [e, feed_cons, stepWith_full s full hc.2 hp, z _ (pushBit_keeps _ _).2.2.2.2.1]
    simp
  · have e : pseudoBit half full true = [lineInterval half, lineInterval half] := rfl
    rw [e, feed_cons, stepWith_first_half s half hc.1 hp, feed_cons,
      stepWith_second_half (s.demodulated (!s.edgeSel) true) half hc.1 rfl,
      z _ (pushBit_keeps _ _).2.2.2.2.1]
    simp [State.demodulated]

end Sys2Proof.Machine
end

