-- ==== Sys2Proof/Tests/Slice0.lean ====
section
/-! SUPPORT. Tests of the model: words and results written out from spec/ (the vectors V-… of 95_test_vectors.md where a test names one), and for each statement with hypotheses a state and operands that meet them. -/

namespace Sys2Proof.Tests

open Sys2Proof.Machine

/-! ## Helpers -/

/-- The state an operation answers. -/
def after (i : Instr) (s : State) : Option State :=
  match exec i s with
  | .next t => some t
  | .fault _ => none
  | .refused _ => none

/-- The state a step answers. -/
def stepped (s : State) : Option State :=
  match step s with
  | .next t => some t
  | .fault _ => none
  | .refused _ => none

/-- The instruction a word decodes to. -/
def decoded (w : PortWord) : Option Instr :=
  match decode w with
  | .ok i => some i
  | .error _ => none

/-- The configured state of 95_test_vectors.md: reset, then `CONFIG 400, 600, 900, 1100`. -/
def configured : State :=
  { State.reset with oneMin := 400, oneMax := 600, zeroMin := 900, zeroMax := 1100 }

/-- The configured state in the middle of a frame. -/
def inFrame : State := { configured with pending := true, pos := 40, ones := 5, syncSeen := true }

/-- A frame buffer from its 64-bit value. -/
def bufOf (v : BitVec 64) : FrameBuf := Vector.ofFn fun k => v.extractLsb' (8 * k.val) 8

/-- A configured state one bit before the end of a window. -/
def atEnd (sync : Bool) : State :=
  { configured with pos := 79, syncSeen := sync, buf := bufOf 0x0001000200030004 }

/-- The characters of a published string. -/
def text (s : State) : List Nat := s.outStr.toList.map BitVec.toNat

/-- A published frame: `01:02:03:04`. -/
def published : State :=
  { configured with frameReady := true, outStr := formatFrame (bufOf 0x0001000200030004) }

/-! ## Well-formedness: what may stand where (30_encoding.md R72, R73) -/

theorem test_wf_accepts_both_ports : (StepOps.ports (.interval 500) (.regRead 0x04)).wf = true := by decide

theorem test_wf_accepts_reset : StepOps.reset.wf = true := by decide

theorem test_wf_refuses_host_operation_on_cap_port : (StepOps.ports (.regRead 0) .hostIdle).wf = false := by decide

theorem test_wf_refuses_cap_operation_on_host_port : (StepOps.ports .capIdle (.interval 5)).wf = false := by decide

theorem test_wf_refuses_push_bit_on_cap_port : (StepOps.ports (.pushBit true) .hostIdle).wf = false := by decide

theorem test_wf_refuses_push_bit_on_host_port : (StepOps.ports .capIdle (.pushBit true)).wf = false := by decide

theorem test_wf_refuses_reset_on_a_port : (StepOps.ports .reset .hostIdle).wf = false := by decide

/-! ## Decoding: a word written out from R70 to R75 for each operation -/

/-- VALID = 0, all other bits 1 (V-DEM-24). -/
theorem test_decode_cap_idle :
    decoded (.cap 0b0_111111111111111_1111111111111111) = some .capIdle := by decide

/-- VALID = 1, reserved bits 1, N = 500 (V-DEM-23). -/
theorem test_decode_interval :
    decoded (.cap 0b1_111111111111111_0000000111110100) = some (.interval 500) := by decide

/-- BV = 1, B = 1. -/
theorem test_decode_push_bit_1 : decoded (.int 0b1_1) = some (.pushBit true) := by decide

/-- BV = 1, B = 0. -/
theorem test_decode_push_bit_0 : decoded (.int 0b1_0) = some (.pushBit false) := by decide

/-- BV = 0 carries no bit. -/
theorem test_decode_no_bit : decode (.int 0b0_1) = .error .noBit := by rfl

/-- OP = 00 with nonzero low bits (V-HOST-16). -/
theorem test_decode_host_idle : decoded (.host 0x00FF1234) = some .hostIdle := by decide

/-- OP = 01, reserved bits 1, IDX = 0 (V-HOST-13). -/
theorem test_decode_reg_read :
    decoded (.host 0b01_111111_00000000_0000000000000000) = some (.regRead 0x00) := by decide

/-- OP = 10, IDX = 3, WDATA = 0xFFFF (V-HOST-14). -/
theorem test_decode_reg_write :
    decoded (.host 0b10_000000_00000011_1111111111111111) = some (.regWrite 0x03 0xFFFF) := by decide

/-- OP = 11 (V-HOST-12). -/
theorem test_decode_host_rsvd : decoded (.host 0xC0FF1234) = some .hostRsvd := by decide

/-- RST = 1, and RST = 0. -/
theorem test_decode_reset : decoded (.rst 0b1) = some .reset ∧ decoded (.rst 0b0) = none := by decide

/-- The words of V-HOST-4: both ports act. -/
theorem test_decode_step : decodeStep ⟨0, 0x800001F4, 0x80000190⟩ = .ports (.interval 500) (.regWrite 0x00 400) := by
  decide

/-- RST = 1 hides both ports (V-RST-2). -/
theorem test_decode_step_reset : decodeStep ⟨1, 0x800001F4, 0x40000000⟩ = .reset := by decide

/-- The words of R81 and of program P1. -/
theorem test_encode_words :
    encode (.regWrite 0x03 1100) = .host 0x8003044C ∧ encode (.regRead 0x10) = .host 0x40100000 ∧
    encode (.interval 2000) = .cap 0x800007D0 := by decide

/-- Words numbered as the opcode table numbers them. -/
theorem test_table_words :
    decodeTableWord 32 0x00000000 = some .capIdle ∧ decodeTableWord 32 0x800001F4 = some (.interval 500) ∧
    decodeTableWord 8 0b10 = some (.pushBit false) ∧ decodeTableWord 8 0b11 = some (.pushBit true) ∧
    decodeTableWord 32 0x00FF1234 = some .hostIdle ∧ decodeTableWord 32 0x40040000 = some (.regRead 0x04) ∧
    decodeTableWord 32 0x8003044C = some (.regWrite 0x03 1100) ∧ decodeTableWord 32 0xC0000000 = some .hostRsvd ∧
    decodeTableWord 8 0b1 = some .reset := by decide

/-- A table word placed for the next step runs in it. -/
theorem test_table_words_run_from_reset :
    (stepped (State.reset.withFetchWord 32 0x800001F4)).map State.events = some [.fault .signalTimingFault] ∧
    (stepped (State.reset.withFetchWord 8 0b11)).map State.ones = some 1 ∧
    (stepped (State.reset.withFetchWord 8 0b10)).map State.pos = some 1 ∧
    (stepped (State.reset.withFetchWord 32 0x40020000)).map State.rdata = some 0xFFFF ∧
    (stepped (State.reset.withFetchWord 32 0x8003044C)).map State.zeroMax = some 1100 ∧
    stepped (State.reset.withFetchWord 8 0b1) = some State.reset := by decide

/-! ## CAP_IDLE -/

/-- V-DEM-19. -/
theorem test_cap_idle : after .capIdle inFrame = some inFrame := by decide

/-! ## INTERVAL -/

/-- V-DEM-1. -/
theorem test_interval_first_half :
    after (.interval 500) configured = some { configured with pending := true, edgeSel := true, capRestart := true } := by
  decide

/-- V-DEM-4. -/
theorem test_interval_misaligned :
    after (.interval 1000) inFrame = some { inFrame with
      pos := 0, pending := false, edgeSel := true, capRestart := true, events := [.fault .alignmentFault] } := by
  decide

/-! ## PUSH_BIT -/

/-- V-ASM-4: a sync run in the data region forces `pos` before the shift. -/
theorem test_push_bit_sync :
    after (.pushBit true) { configured with pos := 20, ones := 11, buf := bufOf 0x0123456789ABCDEF } =
      some { configured with
        pos := 78, ones := 0, syncSeen := true, buf := bufOf 0x0123456789ABCDEF, events := [.sync] } := by
  decide

/-- V-ASM-9: a publish over a frame not yet consumed. -/
theorem test_push_bit_publish :
    (after (.pushBit false) { atEnd true with
        frameReady := true, outDf := true, outStr := #v[57, 57, 57, 57, 57, 57, 57, 57, 57, 57, 57] }).map
      (fun t => (text t, t.outDf, t.frameReady, t.pos, t.ones, t.syncSeen)) =
      some ([0x30, 0x31, 0x3A, 0x30, 0x32, 0x3A, 0x30, 0x33, 0x3A, 0x30, 0x34], false, true, 0, 0, false) := by
  decide

/-- V-ASM-5: the last data position still shifts. -/
theorem test_shift_at_63 :
    (after (.pushBit true) { configured with pos := 63, buf := bufOf 0x0000000000000002 }).map
      (fun t => (bufValue t.buf, t.pos, t.ones)) = some (0x8000000000000001, 64, 1) := by decide

/-- V-BCD-3: every bit 1. -/
theorem test_format_all_ones :
    (formatFrame (bufOf 0xFFFFFFFFFFFFFFFF)).toList.map BitVec.toNat =
      [0x33, 0x3F, 0x3A, 0x37, 0x3F, 0x3A, 0x37, 0x3F, 0x3B, 0x33, 0x3F] := by decide

/-! ## The host operations -/

/-- V-HOST-16. -/
theorem test_host_idle : after .hostIdle { published with rdata := 7 } = some published := by decide

/-- V-HOST-9. -/
theorem test_reg_read_chars :
    (after (.regRead 0x12) published).map State.rdata = some 0x003A ∧
    (after (.regRead 0x1A) published).map State.rdata = some 0x0034 := by decide

/-- STATUS with both bits set (V-HOST-7). -/
theorem test_reg_read_status :
    (after (.regRead 0x04) { published with outDf := true }).map State.rdata = some 0x0003 := by decide

/-- V-HOST-6 and V-HOST-8: only bit 0 consumes. -/
theorem test_reg_write_status :
    after (.regWrite 0x04 0x0001) published = some { published with frameReady := false } ∧
    after (.regWrite 0x04 0x0002) published = some published := by decide

/-- V-HOST-10: a character is read only. -/
theorem test_reg_write_char : after (.regWrite 0x10 0x41) published = some published := by decide

/-- V-HOST-12. -/
theorem test_host_rsvd : after .hostRsvd { published with rdata := 7 } = some published := by decide

/-! ## RESET -/

/-- V-RST-1: the values of R44 and the outputs of R220. -/
theorem test_reset : after .reset { published with capRestart := true, rdata := 7 } = some State.reset := by decide

/-! ## Steps -/

/-- V-HOST-4, first step: the interval meets the reset windows, the write lands. -/
theorem test_step_write_beside_interval :
    (stepped { State.reset with inputs := [⟨0, 0x800001F4, 0x80000190⟩] }).map
      (fun t => (t.events, t.oneMin, t.pending, t.edgeSel)) =
      some ([.fault .signalTimingFault], 400, false, true) := by decide

/-- V-HOST-7: the set of `frame_ready` wins over a consume in the same step. -/
theorem test_step_set_wins :
    (stepped { atEnd true with pending := true, inputs := [⟨0, 0x800001F4, 0x80040001⟩] }).map
      (fun t => (t.frameReady, t.events)) = some (true, [.publish]) := by decide

/-- V-HOST-5: a read in the step of a publish still reads 0. -/
theorem test_step_read_before_publish :
    (stepped { atEnd true with pending := true, inputs := [⟨0, 0x800001F4, 0x40040000⟩] }).map
      (fun t => (t.rdata, t.frameReady)) = some (0x0000, true) := by decide

/-- V-RST-2. -/
theorem test_step_reset_hides_the_ports :
    stepped { published with inputs := [⟨1, 0x800001F4, 0x40000000⟩] } = some State.reset := by decide

/-! ## Witnesses: for each statement with hypotheses, a concrete state and operands that meet them all -/

/-- A state in which a capture event and a host operation wait. -/
def busy : State := { inFrame with inputs := [⟨0, 0x800001F4, 0x80040001⟩, ⟨0, 0, 0⟩] }

theorem witness_ResetStepIgnoresBothPorts :
    (State.nextWords { published with inputs := [⟨1, 0x800001F4, 0x40000000⟩] }).rst = 1 ∧
    (State.nextWords { published with inputs := [⟨1, 0, 0x80000190⟩, ⟨0, 0, 0⟩] }).rst = 1 := by decide

/-- At both bounds: `pos` = 79 and `ones` = 11. -/
theorem witness_StepsKeepTheCounterBounds :
    State.Bounded { atEnd true with ones := 11 } ∧
    (after (.pushBit true) { atEnd true with ones := 11 }).isSome = true ∧
    (stepped { atEnd true with ones := 11, pending := true, inputs := [⟨0, 0x800001F4, 0⟩] }).isSome = true := by
  decide

theorem witness_StepDecodingInvertsEncoding :
    StepOps.wf .reset = true ∧ StepOps.wf (.ports (.interval 0xFFFF) (.regWrite 0xFF 0xFFFF)) = true ∧
    StepOps.wf (.ports .capIdle .hostRsvd) = true := by decide

/-- A word for each value of each field that selects an operation. -/
theorem witness_WordsDecodeByTheirFields :
    (0x7FFFFFFF : PortBits).toNat / 2 ^ 31 = 0 ∧ (0x80000000 : PortBits).toNat / 2 ^ 31 ≠ 0 ∧
    (0x3FFFFFFF : PortBits).toNat / 2 ^ 30 = 0 ∧ (0x40000000 : PortBits).toNat / 2 ^ 30 = 1 ∧
    (0xBFFFFFFF : PortBits).toNat / 2 ^ 30 = 2 ∧ (0xC0000000 : PortBits).toNat / 2 ^ 30 = 3 ∧
    (1 : Strobe).toNat < 2 ∧ (2 : Strobe).toNat = 2 ∧ (3 : Strobe).toNat = 3 ∧
    (1 : BitVec 1).toNat = 1 ∧ (0 : BitVec 1).toNat = 0 := by decide

/-- Two different words for each case of each clause. -/
theorem witness_IgnoredBitsDoNotMatter :
    ((0x00000000 : PortBits).toNat / 2 ^ 31 = (0x7FFFFFFF : PortBits).toNat / 2 ^ 31) ∧
    ((0x80000000 : PortBits).toNat / 2 ^ 31 = (0xFFFF0000 : PortBits).toNat / 2 ^ 31 ∧
      (0x80000000 : PortBits).toNat % 2 ^ 16 = (0xFFFF0000 : PortBits).toNat % 2 ^ 16) ∧
    ((0x00000000 : PortBits).toNat / 2 ^ 30 = (0x3FFFFFFF : PortBits).toNat / 2 ^ 30) ∧
    ((0x40FF0000 : PortBits).toNat / 2 ^ 30 = (0x7FFFFFFF : PortBits).toNat / 2 ^ 30 ∧
      (0x40FF0000 : PortBits).toNat / 2 ^ 16 % 2 ^ 8 = (0x7FFFFFFF : PortBits).toNat / 2 ^ 16 % 2 ^ 8) ∧
    ((0x80000000 : PortBits).toNat / 2 ^ 30 = (0xBF000000 : PortBits).toNat / 2 ^ 30 ∧
      (0x80000000 : PortBits).toNat / 2 ^ 16 % 2 ^ 8 = (0xBF000000 : PortBits).toNat / 2 ^ 16 % 2 ^ 8 ∧
      (0x80000000 : PortBits).toNat % 2 ^ 16 = (0xBF000000 : PortBits).toNat % 2 ^ 16) ∧
    ((0xC0000000 : PortBits).toNat / 2 ^ 30 = (0xFFFFFFFF : PortBits).toNat / 2 ^ 30) := by decide

theorem witness_StepRunsTheDecodedOperations :
    State.reset.inputs = [] ∧ busy.inputs = ⟨0, 0x800001F4, 0x80040001⟩ :: [⟨0, 0, 0⟩] ∧
    decodeStep (State.nextWords { busy with inputs := [⟨1, 0x800001F4, 0⟩] }) = .reset ∧
    decodeStep busy.nextWords = .ports (.interval 500) (.regWrite 0x04 1) := by decide

theorem witness_StepOfOneOperationIsItsExec :
    (Instr.interval 500).port = .cap ∧
    State.inputs { inFrame with inputs := [⟨0, 0x800001F4, 0⟩] } =
      encodeStep (.ports (.interval 500) .hostIdle) :: [] ∧
    (Instr.regRead 0x04).port = .host ∧
    State.inputs { inFrame with inputs := [⟨0, 0, 0x40040000⟩] } =
      encodeStep (.ports .capIdle (.regRead 0x04)) :: [] := by decide

/-- Both clauses: a publish beside a consume, and an old flag with a host write that does not consume. -/
theorem witness_SettingFrameReadyWins :
    decodeStep (State.nextWords { atEnd true with pending := true, inputs := [⟨0, 0x800001F4, 0x80040001⟩] }) =
      .ports (.interval 500) (.regWrite 0x04 0x0001) ∧
    State.Publishes { atEnd true with pending := true } (.interval 500) ∧
    decodeStep (State.nextWords { published with inputs := [⟨0, 0, 0x80040002⟩] }) =
      .ports .capIdle (.regWrite 0x04 0x0002) ∧ published.frameReady = true := by decide

/-- Two pairs of words that differ on one port only. -/
theorem witness_SidesOfAStepAreIndependent :
    (⟨0, 0x800001F4, 0x80040001⟩ : StepWords).rst = 0 ∧ (⟨0, 0x800001F4, 0⟩ : StepWords).rst = 0 ∧
    (⟨0, 0x800001F4, 0x80040001⟩ : StepWords).cap = (⟨0, 0x800001F4, 0⟩ : StepWords).cap ∧
    (⟨0, 0x800001F4, 0x80040001⟩ : StepWords).host = (⟨0, 0, 0x80040001⟩ : StepWords).host := by decide

theorem witness_CalibrationChangesOnlyByHostWrite :
    decodeStep (State.nextWords { inFrame with inputs := [⟨0, 0x800001F4, 0x8003FFFF⟩] }) =
      .ports (.interval 500) (.regWrite 0x03 0xFFFF) ∧
    (stepped { inFrame with inputs := [⟨0, 0x800001F4, 0x8003FFFF⟩] }).map State.zeroMax = some 0xFFFF := by decide

/-- A completion without sync, the step before a publish, and a sync detection. -/
theorem witness_OutputLatchChangesOnlyAtPublish :
    (decodeStep (State.nextWords { atEnd false with inputs := [⟨0, 0x800003E8, 0⟩] }) =
        .ports (.interval 1000) .hostIdle ∧
      State.Completes (atEnd false) (.interval 1000) ∧ ¬ State.Publishes (atEnd false) (.interval 1000)) ∧
    ¬ State.Publishes { atEnd true with pos := 78 } (.interval 1000) ∧
    ¬ State.Publishes { atEnd true with ones := 11, pending := true } (.interval 500) := by decide

/-- Each clause: a sync detection, a flag cleared by a publish, and a recovery. -/
theorem witness_SyncSeenIsSetAndCleared :
    (decodeStep (State.nextWords { inFrame with ones := 11, inputs := [⟨0, 0x800001F4, 0⟩] }) =
        .ports (.interval 500) .hostIdle ∧
      State.DetectsSync { inFrame with ones := 11 } (.interval 500) ∧
      (stepped { inFrame with ones := 11, syncSeen := false, inputs := [⟨0, 0x800001F4, 0⟩] }).map State.syncSeen =
        some true) ∧
    (decodeStep (State.nextWords { atEnd true with inputs := [⟨0, 0x800003E8, 0⟩] }) =
        .ports (.interval 1000) .hostIdle ∧
      State.Completes (atEnd true) (.interval 1000) ∧ (atEnd true).syncSeen = true ∧
      (stepped { atEnd true with inputs := [⟨0, 0x800003E8, 0⟩] }).map State.syncSeen = some false) ∧
    (inFrame.emitted (.interval 1000) = none ∧ inFrame.syncSeen = true) := by decide

/-- Each right side holds somewhere. -/
theorem witness_EventsRecordWhatHappened :
    decodeStep (State.nextWords { inFrame with inputs := [⟨1, 0x800001F4, 0⟩] }) = .reset ∧
    decodeStep (State.nextWords { inFrame with inputs := [⟨0, 0x800007D0, 0⟩] }) = .ports (.interval 2000) .hostIdle ∧
    inFrame.classify 2000 = .invalid ∧
    inFrame.classify 1000 = .full ∧ inFrame.pending = true ∧
    (State.Completes (atEnd false) (.interval 1000) ∧ (atEnd false).syncSeen = false) ∧
    State.DetectsSync { inFrame with ones := 11 } (.interval 600) ∧
    State.Publishes (atEnd true) (.interval 900) := by decide

theorem witness_EventsOfOneOperationExclude :
    (atEnd false).events = [] ∧
    (after (.pushBit true) (atEnd false)).map State.events = some [.fault .frameBoundaryMismatch] ∧
    (stepped { atEnd true with ones := 11, pending := true, inputs := [⟨0, 0x800001F4, 0⟩] }).map State.events =
      some [.sync] := by decide

theorem witness_OutputPortsOfAStep :
    decodeStep (State.nextWords { published with inputs := [⟨1, 0x800001F4, 0x40000000⟩] }) = .reset ∧
    decodeStep busy.nextWords = .ports (.interval 500) (.regWrite 0x04 1) ∧
    decodeStep (State.nextWords { published with inputs := [⟨0, 0, 0x401A0000⟩] }) = .ports .capIdle (.regRead 0x1A) := by
  decide

/-- Both ends of both windows, just outside them (V-DEM-6 to V-DEM-13), empty windows (V-DEM-17), and a step
whose host write changes the window its interval lies in. -/
theorem witness_IntervalsAreClassifiedByWindow :
    configured.classify 399 = .invalid ∧ configured.classify 400 = .half ∧ configured.classify 600 = .half ∧
    configured.classify 601 = .invalid ∧ configured.classify 899 = .invalid ∧ configured.classify 900 = .full ∧
    configured.classify 1100 = .full ∧ configured.classify 1101 = .invalid ∧
    State.classify { configured with oneMax := 1000 } 950 = .half ∧
    State.classify { configured with oneMin := 600, oneMax := 400 } 500 = .invalid ∧
    State.classify { configured with zeroMin := 1100, zeroMax := 900 } 1000 = .invalid ∧
    decodeStep (State.nextWords { configured with inputs := [⟨0, 0x800001F4, 0x80000258⟩] }) =
      .ports (.interval 500) (.regWrite 0x00 600) := by decide

/-- The five cases, at the ends of the windows. -/
theorem witness_IntervalActsByClassAndPending :
    (configured.oneMin.toNat ≤ (400 : Tick).toNat ∧ (400 : Tick).toNat ≤ configured.oneMax.toNat ∧
      configured.pending = false ∧ inFrame.oneMin = configured.oneMin ∧ inFrame.pending = true) ∧
    (¬ (configured.oneMin.toNat ≤ (1100 : Tick).toNat ∧ (1100 : Tick).toNat ≤ configured.oneMax.toNat) ∧
      configured.zeroMin.toNat ≤ (1100 : Tick).toNat ∧ (1100 : Tick).toNat ≤ configured.zeroMax.toNat ∧
      inFrame.zeroMin = configured.zeroMin ∧ inFrame.zeroMax = configured.zeroMax) ∧
    (¬ (configured.oneMin.toNat ≤ (1101 : Tick).toNat ∧ (1101 : Tick).toNat ≤ configured.oneMax.toNat) ∧
      ¬ (configured.zeroMin.toNat ≤ (1101 : Tick).toNat ∧ (1101 : Tick).toNat ≤ configured.zeroMax.toNat)) := by
  decide

/-- With no publish and with one. -/
theorem witness_IntervalFrame :
    (after (.interval 500) configured).map State.events = some [] ∧
    (after (.interval 1000) (atEnd true)).map State.events = some [.publish] := by decide

/-- Just below the sync run, at it, and operations that emit no bit: an alignment fault, and a host write. -/
theorem witness_PushBitTracksSync :
    (State.ones { inFrame with ones := 10 }).toNat < 11 ∧ (State.ones { inFrame with ones := 11 }).toNat = 11 ∧
    inFrame.emitted (.interval 1000) = none ∧ inFrame.emitted (.regWrite 0x04 1) = none := by decide

/-- Both sides of the end of the data region, and a sync detection inside it. -/
theorem witness_PushBitShiftsTheBuffer :
    (¬ (true = true ∧ inFrame.ones.toNat = 11) ∧ (State.pos { inFrame with pos := 63 }).toNat ≤ 63) ∧
    64 ≤ (State.pos { inFrame with pos := 64 }).toNat ∧
    (true = true ∧ (State.ones { inFrame with ones := 11 }).toNat = 11) := by decide

/-- `pos` = 78, and `pos` = 79 with and without sync seen. -/
theorem witness_PushBitCountsAndCompletes :
    ¬ (true = true ∧ (atEnd true).ones.toNat = 11) ∧ (atEnd true).pos.toNat = 79 ∧ (atEnd true).syncSeen = true ∧
    (atEnd false).pos.toNat = 79 ∧ (atEnd false).syncSeen = false ∧
    (State.pos { atEnd true with pos := 78 }).toNat < 79 := by decide

/-- A completion without sync, and a sync detection at position 78. -/
theorem witness_PushBitFrame :
    (after (.pushBit true) (atEnd false)).isSome = true ∧
    ¬ ((atEnd false).pos.toNat = 79 ∧ (atEnd false).syncSeen = true) := by decide

theorem witness_PublishFormatsTheFrame :
    (atEnd true).pos.toNat = 79 ∧ (atEnd true).syncSeen = true ∧ ¬ (true = true ∧ (atEnd true).ones.toNat = 11) ∧
    (bufValue (atEnd true).buf).toNat = 0x0001000200030004 := by decide

/-- Two buffers that differ in every bit the fields do not use. -/
theorem witness_PublishIgnoresTheOtherBits :
    bufValue (bufOf 0x0001000200030004) &&& 0x030F070F070F070F =
      bufValue (bufOf 0xFCF1F8F2F8F3F8F4) &&& 0x030F070F070F070F ∧
    (atEnd true).pos.toNat = 79 ∧ (atEnd true).syncSeen = true ∧ ¬ (false = true ∧ (atEnd true).ones.toNat = 11) := by
  decide

theorem witness_BufferHoldsTheLastSixtyFourBits : (dataBits 0x0123456789ABCDEF).length = 64 := by decide

/-- The ends of the characters' range and of both reserved ranges, and a read in the step of a publish. -/
theorem witness_RegReadReturnsTheRegister :
    (0x10 : RegIdx).toNat = 0x10 + (0 : Fin 11).val ∧ (0x1A : RegIdx).toNat = 0x10 + (10 : Fin 11).val ∧
    (0x05 ≤ (0x05 : RegIdx).toNat ∧ (0x0F : RegIdx).toNat ≤ 0x0F) ∧
    0x1B ≤ (0x1B : RegIdx).toNat ∧ 0x1B ≤ (0xFF : RegIdx).toNat ∧
    decodeStep (State.nextWords { atEnd true with pending := true, inputs := [⟨0, 0x800001F4, 0x40040000⟩] }) =
      .ports (.interval 500) (.regRead 0x04) := by decide

/-- A value that consumes, one that does not, and the ends of the range that ignores writes. -/
theorem witness_RegWriteWritesTheRegister :
    (0xFFFF : RegWord).toNat % 2 = 1 ∧ (0xFFFE : RegWord).toNat % 2 = 0 ∧ 0x05 ≤ (0x05 : RegIdx).toNat ∧
    0x05 ≤ (0xFF : RegIdx).toNat := by decide

theorem witness_ThresholdsReadBackAsWritten : (0 : RegIdx).toNat ≤ 3 ∧ (3 : RegIdx).toNat ≤ 3 := by decide

theorem witness_AlignedDemodulatorEmitsTheBits :
    configured.Calibrated 500 1000 ∧ configured.Calibrated 400 1100 ∧ configured.pending = false := by decide

theorem witness_FirstZeroBitRealignsThePairing : inFrame.Calibrated 600 900 ∧ inFrame.pending = true := by decide

/-- Both alternatives of the hypothesis. -/
theorem witness_SyncWordAnchorsTheDecoder :
    inFrame.Calibrated 500 1000 ∧
    (syncWord = syncWord ∨ (inFrame.pending = false ∧ syncWord = syncWord.drop 1)) ∧
    configured.Calibrated 500 1000 ∧
    (syncWord.drop 1 = syncWord ∨ (configured.pending = false ∧ syncWord.drop 1 = syncWord.drop 1)) := by decide

/-- The frame 01:02:03:04 after another frame, whose last bit left `ones` = 1. -/
theorem witness_AnchoredFrameIsPublishedExactly :
    State.Calibrated { configured with ones := 1 } 500 1000 ∧ configured.pending = false ∧ configured.pos = 0 ∧
    noSyncRun (State.ones { configured with ones := 1 }).toNat ((frameBitsOf 0x0001000200030004).take 77) = true := by
  decide

/-- The largest digits with every other bit 1. -/
theorem witness_ValidDigitsHoldNoFalseSync :
    let v : BitVec 64 := 0xFEF9FDF9FDF9FEF9
    v.toNat % 16 ≤ 9 ∧ v.toNat / 2 ^ 8 % 4 ≤ 2 ∧ v.toNat / 2 ^ 16 % 16 ≤ 9 ∧ v.toNat / 2 ^ 24 % 8 ≤ 5 ∧
    v.toNat / 2 ^ 32 % 16 ≤ 9 ∧ v.toNat / 2 ^ 40 % 8 ≤ 5 ∧ v.toNat / 2 ^ 48 % 16 ≤ 9 ∧ v.toNat / 2 ^ 56 % 4 ≤ 2 := by
  decide

theorem witness_ValidTimecodeDecodesFromAnyState :
    inFrame.Calibrated 500 1000 ∧ 23 < 24 ∧ 59 < 60 ∧ 59 < 60 ∧ 29 < 30 := by decide

/-- A host that drains while the capture port is idle. -/
theorem witness_ConsistentDrainReadsOneFrame :
    (List.replicate 13 (0 : PortBits)).length = 13 ∧
    (published.feed (List.zipWith (fun c h => (⟨0, c, h⟩ : StepWords)) (List.replicate 13 0)
      (hostWord 0b10 0x04 1 :: ((List.finRange 11).map fun n => hostWord 0b01 (idxTcChar n) 0) ++
        [hostWord 0b01 0x04 0]))).rdata.getLsbD 0 = false := by decide

/-- Three intervals, and the state from which four publish. -/
theorem witness_PublishesAreFourIntervalsApart :
    (State.pos { configured with ones := 11 } = 0 ∧ configured.pending = false ∧
      pseudoBits 500 1000 [true, false] ≠ [] ∧ (∀ w ∈ pseudoBits 500 1000 [true, false], w.rst = 0) ∧
      ((pseudoBits 500 1000 [true, false]).filter fun w => w.cap.getLsbD 31).length ≤ 3) ∧
    State.Calibrated { configured with ones := 11 } 500 1000 ∧ (State.ones { configured with ones := 11 }) = 11 := by
  decide

end Sys2Proof.Tests
end

section
/-! PROOFS. The family of 10_state.md: the reset values, the bounds of the counters, `sync_seen`, the output ports, and what the registers show. -/

namespace Sys2Proof.Machine

/-! ## What the ports of a step perform -/

/-- What a capture port carries when RST = 0. -/
theorem cap_of_decodeStep_ports {w : StepWords} {cap host : Instr} (h : decodeStep w = .ports cap host) :
    cap = .capIdle ∨ ∃ n, cap = .interval n := by
  obtain ⟨-, e⟩ | ⟨-, e⟩ := decodeStep_cases w <;> rw [e] at h <;> cases h
  exact (decodeCap_cases w.cap).imp_right fun e => ⟨_, e⟩

/-- What a host port carries when RST = 0. -/
theorem host_of_decodeStep_ports {w : StepWords} {cap host : Instr} (h : decodeStep w = .ports cap host) :
    host = .hostIdle ∨ (∃ idx, host = .regRead idx) ∨ (∃ idx v, host = .regWrite idx v) ∨ host = .hostRsvd := by
  obtain ⟨-, e⟩ | ⟨-, e⟩ := decodeStep_cases w <;> rw [e] at h <;> cases h
  exact (decodeHost_cases w.host).imp_right
    (Or.imp (fun e => ⟨_, e⟩) (Or.imp_left fun e => ⟨_, _, e⟩))

theorem stepNext_of_reset {s : State} (h : decodeStep s.nextWords = .reset) :
    stepNext s = execNext .reset s.beginStep := by
  rw [stepNext, h]; rfl

theorem stepNext_of_ports {s : State} {cap host : Instr} (h : decodeStep s.nextWords = .ports cap host) :
    stepNext s = State.joinSides (execNext cap (s.beginStep.setFrameReady false)) (execNext host s.beginStep) := by
  rw [stepNext, h]; rfl

/-! ## INTERVAL by what it emits (40_demodulator.md R101) -/

/-- An INTERVAL that emits a bit is PUSH_BIT of that bit on the state the demodulator leaves. -/
theorem interval_of_emits {s : State} {n : Tick} {b : Bool} (h : s.emitted (.interval n) = some b) :
    s.interval n = State.pushBit { s with edgeSel := !s.edgeSel, capRestart := true, pending := false } b := by
  obtain ⟨hc, hp, e⟩ | ⟨hc, hp, e⟩ | ⟨hc, hp, e⟩ | ⟨hc, hp, e⟩ | ⟨hc, e⟩ := interval_cases s n
  · simp [State.emitted, hc, hp] at h
  · obtain rfl : true = b := by simpa [State.emitted, hc, hp] using h
    exact e
  · obtain rfl : false = b := by simpa [State.emitted, hc, hp] using h
    rw [e, ← hp]
  · simp [State.emitted, hc, hp] at h
  · simp [State.emitted, hc] at h

/-- An INTERVAL that emits no bit leaves the frame assembler but for `pos`, which a recovery clears. -/
theorem interval_of_emits_none {s : State} {n : Tick} (h : s.emitted (.interval n) = none) :
    ∃ pending pos events, (pos = s.pos ∨ pos = 0) ∧ s.interval n =
      { s with edgeSel := !s.edgeSel, capRestart := true, pending := pending, pos := pos, events := events } := by
  obtain ⟨hc, hp, e⟩ | ⟨hc, hp, e⟩ | ⟨hc, hp, e⟩ | ⟨hc, hp, e⟩ | ⟨hc, e⟩ := interval_cases s n
  · exact ⟨_, _, _, .inl rfl, e⟩
  · simp [State.emitted, hc, hp] at h
  · simp [State.emitted, hc, hp] at h
  · exact ⟨_, _, _, .inr rfl, e⟩
  · exact ⟨_, _, _, .inr rfl, e⟩

@[simp] theorem interval_edgeSel (s : State) (n : Tick) : (s.interval n).edgeSel = !s.edgeSel := by
  cases h : s.emitted (.interval n) with
  | none => obtain ⟨_, _, _, -, e⟩ := interval_of_emits_none h; rw [e]
  | some b => rw [interval_of_emits h, (pushBit_keeps _ b).2.1]

@[simp] theorem interval_capRestart (s : State) (n : Tick) : (s.interval n).capRestart = true := by
  cases h : s.emitted (.interval n) with
  | none => obtain ⟨_, _, _, -, e⟩ := interval_of_emits_none h; rw [e]
  | some b => rw [interval_of_emits h, (pushBit_keeps _ b).2.2.1]

/-! ## The bounds of the counters (10_state.md R32) -/

/-- Short of a sync detection the run counter stays below 12. -/
theorem onesAfter_le {s : State} {b : Bool} (hs : s.Bounded) (hd : ¬ Detects s b) :
    (onesAfter s b).toNat ≤ 11 := by
  obtain ⟨-, ho⟩ := hs
  rw [detects_iff] at hd
  cases b with
  | false => exact Nat.zero_le _
  | true =>
    show (s.ones + 1).toNat ≤ 11
    have : s.ones.toNat ≠ 11 := fun e => hd ⟨rfl, e⟩
    bv_omega

theorem pushBit_bounded {s : State} (hs : s.Bounded) (b : Bool) : (s.pushBit b).Bounded := by
  obtain ⟨-, e⟩ | ⟨hd, hp, e⟩ | ⟨hd, -, -, e⟩ | ⟨hd, -, -, e⟩ := pushBit_cases s b <;> rw [e]
  · exact show (78 : BitVec 7).toNat ≤ 79 ∧ (0 : BitVec 4).toNat ≤ 11 by decide
  · have hpos : (s.pos + 1).toNat ≤ 79 := by have := hs.1; bv_omega
    exact ⟨hpos, onesAfter_le hs hd⟩
  · exact ⟨Nat.zero_le _, onesAfter_le hs hd⟩
  · exact ⟨Nat.zero_le _, onesAfter_le hs hd⟩

theorem interval_bounded {s : State} (hs : s.Bounded) (n : Tick) : (s.interval n).Bounded := by
  cases h : s.emitted (.interval n) with
  | none =>
    obtain ⟨_, pos, _, rfl | rfl, e⟩ := interval_of_emits_none h <;> rw [e]
    · exact hs
    · exact ⟨Nat.zero_le _, hs.2⟩
  | some b =>
    rw [interval_of_emits h]
    apply pushBit_bounded
    exact hs

theorem writeReg_bounded {s : State} (hs : s.Bounded) (idx : RegIdx) (v : RegWord) : (s.writeReg idx v).Bounded := by
  obtain ⟨-, e⟩ | ⟨-, e⟩ | ⟨-, e⟩ | ⟨-, e⟩ | ⟨-, e⟩ := writeReg_cases s idx v <;> rw [e] <;> exact hs

theorem reset_bounded : State.reset.Bounded := by decide

theorem execNext_bounded {s : State} (hs : s.Bounded) (i : Instr) : (execNext i s).Bounded := by
  cases i with
  | interval n => exact interval_bounded hs n
  | pushBit b => exact pushBit_bounded hs b
  | regWrite idx v => exact writeReg_bounded hs idx v
  | reset => exact reset_bounded
  | capIdle | hostIdle | regRead | hostRsvd => exact hs

/-- The counters after a step are those its capture side leaves. -/
theorem stepNext_bounded {s : State} (hs : s.Bounded) : (stepNext s).Bounded := by
  cases h : decodeStep s.nextWords with
  | reset => rw [stepNext_of_reset h]; exact reset_bounded
  | ports cap host =>
    rw [stepNext_of_ports h]
    exact execNext_bounded (s := s.beginStep.setFrameReady false) hs cap

/-- Settles O4, operation by operation. -/
theorem stepsKeepTheCounterBounds : Obligations.StepsKeepTheCounterBounds := by
  refine ⟨reset_bounded, fun i s t hs h => ?_, fun s t hs h => ?_⟩
  · rw [(exec_next_iff i s t).mp h]; exact execNext_bounded hs i
  · rw [(step_next_iff s t).mp h]; exact stepNext_bounded hs

/-! ## `sync_seen` (10_state.md R26) -/

theorem pushBit_syncSeen_iff (s : State) (b : Bool) :
    (s.pushBit b).syncSeen = true ↔ Detects s b ∨ (s.syncSeen = true ∧ s.pos + 1 ≠ 80) := by
  obtain ⟨hd, e⟩ | ⟨hd, hp, e⟩ | ⟨hd, hp, hs, e⟩ | ⟨hd, hp, hs, e⟩ := pushBit_cases s b <;> rw [e]
  · exact iff_of_true rfl (.inl hd)
  · exact ⟨fun hs => .inr ⟨hs, hp⟩, fun h => (h.resolve_left hd).1⟩
  · exact iff_of_false Bool.false_ne_true fun h => (h.resolve_left hd).2 hp
  · exact iff_of_false (Bool.eq_false_iff.mp hs) fun h => (h.resolve_left hd).2 hp

/-- `sync_seen` after an INTERVAL: a detection sets it, a completion clears it, and nothing else touches it. -/
theorem interval_syncSeen_iff (s : State) (n : Tick) : (s.interval n).syncSeen = true ↔
    s.DetectsSync (.interval n) ∨ (s.syncSeen = true ∧ ¬ s.Completes (.interval n)) := by
  unfold State.Completes State.DetectsSync
  cases h : s.emitted (.interval n) with
  | none => obtain ⟨_, _, _, -, e⟩ := interval_of_emits_none h; simp [e]
  | some b =>
    rw [interval_of_emits h, pushBit_syncSeen_iff, detects_iff]
    have hp : s.pos + 1 = 80 ↔ s.pos.toNat = 79 := by constructor <;> (intro; bv_omega)
    simp only [ne_eq, hp, Option.some.injEq, reduceCtorEq, not_false_eq_true, true_and]
    tauto

/-- The same for a whole step that is no reset. -/
theorem stepNext_syncSeen_iff {s : State} {cap host : Instr} (h : decodeStep s.nextWords = .ports cap host) :
    (stepNext s).syncSeen = true ↔ s.DetectsSync cap ∨ (s.syncSeen = true ∧ ¬ s.Completes cap) := by
  rw [stepNext_of_ports h]
  obtain rfl | ⟨n, rfl⟩ := cap_of_decodeStep_ports h
  · simp [execNext, State.DetectsSync, State.Completes, State.emitted]
  · exact interval_syncSeen_iff (s.beginStep.setFrameReady false) n

/-- Settles O19: the four clauses follow from the exact condition for `sync_seen` after the step. -/
theorem syncSeenIsSetAndCleared : Obligations.SyncSeenIsSetAndCleared := by
  intro s cap host h
  have key := stepNext_syncSeen_iff h
  refine ⟨stepNext s, step_eq_next s, fun hd => key.mpr (.inl hd), fun ht => ?_, fun hs ht => ?_, fun he => ?_⟩
  · exact (key.mp ht).elim .inr fun hk => .inl hk.1
  · by_contra hc
    exact Bool.false_ne_true (ht.symm.trans (key.mpr (.inr ⟨hs, hc⟩)))
  · rw [Bool.eq_iff_iff, key]
    simp [State.DetectsSync, State.Completes, he]

/-! ## The output ports (10_state.md R34) -/

/-- RDATA after a host operation that reads nothing. -/
theorem execNext_host_rdata {w : StepWords} {cap host : Instr} (h : decodeStep w = .ports cap host)
    (hr : ∀ idx, host ≠ .regRead idx) (s : State) : (execNext host s).rdata = 0 := by
  obtain rfl | ⟨idx, rfl⟩ | ⟨idx, v, rfl⟩ | rfl := host_of_decodeStep_ports h
  · rfl
  · exact absurd rfl (hr idx)
  · rfl
  · rfl

/-- Settles O22: EDGE_SEL and CAP_RESTART come from the capture side, RDATA from the host side. -/
theorem outputPortsOfAStep : Obligations.OutputPortsOfAStep := by
  intro s
  refine ⟨stepNext s, step_eq_next s, rfl, rfl, fun h => by rw [stepNext_of_reset h]; rfl, fun cap host h => ?_⟩
  rw [stepNext_of_ports h]
  refine ⟨?_, ?_, ?_, fun hr => execNext_host_rdata h hr s.beginStep⟩
  · rintro n rfl; simp [State.outputs, execNext]
  · rintro rfl; exact ⟨rfl, rfl⟩
  · rintro idx rfl; rfl

/-! ## The reset values (10_state.md R44) -/

theorem execNext_reset_hasResetValues (s : State) : (execNext .reset s).HasResetValues := by
  have hbuf : ∀ k : Fin 8, State.reset.buf[k] = 0 := by decide
  have hstr : ∀ n : Fin 11, State.reset.outStr[n] = 0 := by decide
  exact ⟨rfl, rfl, rfl, rfl, rfl, rfl, rfl, rfl, rfl, hbuf, rfl, rfl, hstr, rfl⟩

/-- Settles O1. -/
theorem resetRestoresEveryField : Obligations.ResetRestoresEveryField := fun s =>
  ⟨_, exec_eq_next .reset s, execNext_reset_hasResetValues s⟩

/-! ## What the registers show (10_state.md R42) -/

/-- A register shows nothing but the thresholds, the two flags of STATUS and the published string. -/
theorem readReg_eq_of_registers {s t : State} (h1 : s.oneMin = t.oneMin) (h2 : s.oneMax = t.oneMax)
    (h3 : s.zeroMin = t.zeroMin) (h4 : s.zeroMax = t.zeroMax) (h5 : s.frameReady = t.frameReady)
    (h6 : s.outDf = t.outDf) (h7 : s.outStr = t.outStr) (idx : RegIdx) : s.readReg idx = t.readReg idx := by
  simp only [State.readReg, State.statusWord, h1, h2, h3, h4, h5, h6, h7]

/-- Settles O37: the two states agree in every field a register shows. -/
theorem noRegisterShowsInternalState : Obligations.NoRegisterShowsInternalState := by
  intro s idx edgeSel pending syncSeen ones pos buf
  refine ⟨_, _, exec_eq_next _ _, exec_eq_next _ _, ?_⟩
  exact readReg_eq_of_registers rfl rfl rfl rfl rfl rfl rfl idx

end Sys2Proof.Machine
end

section
/-! PROOFS. The family of 20_memory.md: a host read has no side effect, and an access repeated changes nothing more (R55). -/

namespace Sys2Proof.Machine

/-! ## A host word that is a read, and the step without it -/

theorem decodeHost_of_op_read {w : PortBits} (h : w.toNat / 2 ^ 30 = 1) :
    decodeHost w = .regRead (w.extractLsb' 16 8) := by
  have hop : w.extractLsb' 30 2 = 0b01#2 := by
    apply BitVec.eq_of_toNat_eq
    rw [BitVec.extractLsb'_toNat, Nat.shiftRight_eq_div_pow, h]; rfl
  have hidle : ¬ w.extractLsb' 30 2 = 0b00#2 := by rw [hop]; decide
  exact (if_neg hidle).trans (if_pos hop)

/-- The words of a step with a host read replaced by an idle host port. -/
def withoutRead (w : StepWords) : StepWords := if w.host.toNat / 2 ^ 30 = 1 then { w with host := 0 } else w

/-- A read touches RDATA and nothing else, so that alone tells a step from the one without its read. -/
theorem stepWith_withoutRead (s : State) (w : StepWords) :
    ∃ r, s.stepWith (withoutRead w) = (s.stepWith w).setRdata r := by
  unfold withoutRead
  split
  next hread =>
    obtain ⟨hrst, e⟩ | ⟨hrst, e⟩ := decodeStep_cases w
    · have e' : decodeStep { w with host := 0 } = .reset := if_pos hrst
      exact ⟨0, by unfold State.stepWith; rw [e, e']; rfl⟩
    · have hrst : ¬ w.rst = 1#1 := by rw [hrst]; decide
      have hidle : decodeHost 0 = .hostIdle := by decide
      have e' : decodeStep { w with host := 0 } = .ports (decodeCap w.cap) .hostIdle :=
        (if_neg hrst).trans (congrArg (StepOps.ports (decodeCap w.cap)) hidle)
      exact ⟨0, by unfold State.stepWith; rw [e, e', decodeHost_of_op_read hread]; rfl⟩
  next => exact ⟨(s.stepWith w).rdata, rfl⟩

/-- A run without its reads, from a state with any RDATA, differs from the run in RDATA alone. -/
theorem feed_withoutRead (s : State) (ws : List StepWords) (r : RegWord) :
    ∃ r', (s.setRdata r).feed (ws.map withoutRead) = (s.feed ws).setRdata r' := by
  induction ws generalizing s r with
  | nil => exact ⟨r, rfl⟩
  | cons w ws ih =>
    obtain ⟨r₁, e⟩ := stepWith_withoutRead s w
    have harch : (s.setRdata r).arch = s.arch := rfl
    rw [List.map_cons, feed_cons, feed_cons, stepWith_eq_of_arch harch, e]
    exact ih _ r₁

/-! ## Repeated accesses -/

theorem execNext_regRead_idem (s : State) (idx : RegIdx) :
    execNext (.regRead idx) (execNext (.regRead idx) s) = execNext (.regRead idx) s := by
  have h : (execNext (.regRead idx) s).readReg idx = s.readReg idx :=
    readReg_eq_of_registers rfl rfl rfl rfl rfl rfl rfl idx
  exact congrArg s.setRdata h

/-- Asking twice for the clear of `frame_ready` clears no more than asking once. -/
theorem readyAfterWrite_idem (ready : Bool) (idx : RegIdx) (v : RegWord) :
    readyAfterWrite (readyAfterWrite ready idx v) idx v = readyAfterWrite ready idx v := by
  simp only [readyAfterWrite, Bool.and_assoc, Bool.and_self]

theorem execNext_regWrite_idem (s : State) (idx : RegIdx) (v : RegWord) :
    execNext (.regWrite idx v) (execNext (.regWrite idx v) s) = execNext (.regWrite idx v) s := by
  simp only [execNext, State.writeReg]
  split_ifs
  case neg =>
    exact congrArg (fun ready => (s.setFrameReady ready).setRdata 0) (readyAfterWrite_idem s.frameReady idx v)
  all_goals rfl

/-- Settles O38: a run and the run without its reads differ in RDATA alone, and both accesses are idempotent. -/
theorem hostReadsHaveNoSideEffect : Obligations.HostReadsHaveNoSideEffect := by
  refine ⟨?_, fun s idx => ?_, fun s idx v => ?_⟩
  · intro s ws t t'
    obtain ⟨r, e⟩ := feed_withoutRead s ws s.rdata
    have hrun : t' = t.setRdata r := e
    rw [hrun]
    exact ⟨rfl, rfl, rfl⟩
  · exact ⟨_, exec_eq_next _ _, (exec_next_iff _ _ _).mpr (execNext_regRead_idem s idx).symm⟩
  · exact ⟨_, exec_eq_next _ _, (exec_next_iff _ _ _).mpr (execNext_regWrite_idem s idx v).symm⟩

end Sys2Proof.Machine
end

section
/-! PROOFS. The family of 30_encoding.md: a word decodes by the values of its fields (R75). -/

namespace Sys2Proof.Machine

/-! ## A field of a port word by its value -/

/-- A field read out of a port word is the field's value in the word, taken as a number. -/
theorem extractLsb'_eq_ofNat_field (w : PortBits) (start len : Nat) :
    w.extractLsb' start len = BitVec.ofNat len (w.toNat / 2 ^ start % 2 ^ len) := by
  apply BitVec.eq_of_toNat_eq
  rw [BitVec.extractLsb'_toNat, BitVec.toNat_ofNat, Nat.mod_mod, Nat.shiftRight_eq_div_pow]

/-- Nothing stands above the top field of a port word, so the quotient alone is its value. -/
theorem extractLsb'_top_eq_iff (w : PortBits) {start len k : Nat} (hlen : 32 = start + len) (hk : k < 2 ^ len) :
    w.extractLsb' start len = BitVec.ofNat len k ↔ w.toNat / 2 ^ start = k := by
  have hlt : w.toNat / 2 ^ start < 2 ^ len :=
    Nat.div_lt_of_lt_mul (by rw [← Nat.pow_add, ← hlen]; exact w.isLt)
  rw [extractLsb'_eq_ofNat_field, ← BitVec.toNat_inj, BitVec.toNat_ofNat, BitVec.toNat_ofNat,
    Nat.mod_mod, Nat.mod_eq_of_lt hlt, Nat.mod_eq_of_lt hk]

/-- Bits 15:0, which are N in a capture word and WDATA in a host word. -/
theorem extractLsb'_zero_eq_ofNat_mod (w : PortBits) :
    w.extractLsb' 0 16 = BitVec.ofNat 16 (w.toNat % 2 ^ 16) := by
  rw [extractLsb'_eq_ofNat_field, Nat.pow_zero, Nat.div_one]

/-! ## The capture port (R70) -/

theorem decodeCap_eq_of_fields (w : PortBits) : decodeCap w =
    if w.toNat / 2 ^ 31 = 0 then .capIdle else .interval (BitVec.ofNat 16 (w.toNat % 2 ^ 16)) := by
  have hvalid : w.extractLsb' 31 1 = 1#1 ↔ ¬ w.toNat / 2 ^ 31 = 0 := by
    rw [extractLsb'_top_eq_iff w rfl (by decide)]
    have := w.isLt
    omega
  rw [decodeCap, extractLsb'_zero_eq_ofNat_mod]
  simp only [hvalid, ite_not]

/-! ## The host port (R71) -/

/-- OP, the top field of a host word, by its number. -/
theorem hostOp_eq_of_value {w : PortBits} {k : Nat} (hk : k < 4) (h : w.toNat / 2 ^ 30 = k) :
    w.extractLsb' 30 2 = BitVec.ofNat 2 k :=
  (extractLsb'_top_eq_iff w rfl hk).mpr h

theorem decodeHost_of_op_idle {w : PortBits} (h : w.toNat / 2 ^ 30 = 0) : decodeHost w = .hostIdle := by
  rw [decodeHost, hostOp_eq_of_value (by decide) h]; rfl

theorem decodeHost_of_op_write {w : PortBits} (h : w.toNat / 2 ^ 30 = 2) :
    decodeHost w = .regWrite (w.extractLsb' 16 8) (w.extractLsb' 0 16) := by
  rw [decodeHost, hostOp_eq_of_value (by decide) h]; rfl

theorem decodeHost_of_op_rsvd {w : PortBits} (h : w.toNat / 2 ^ 30 = 3) : decodeHost w = .hostRsvd := by
  rw [decodeHost, hostOp_eq_of_value (by decide) h]; rfl

/-! ## The bit strobe (R72) -/

/-- A strobe below 2 has BV = 0. -/
theorem strobeBit_of_lt_two {w : Strobe} (h : w.toNat < 2) : strobeBit w = none := by
  have hbv : w.getLsbD 1 = false := BitVec.testBit_toNat w ▸ Nat.testBit_lt_two_pow h
  rw [strobeBit, hbv]; rfl

theorem decode_int_of_lt_two {w : Strobe} (h : w.toNat < 2) : decode (.int w) = .error .noBit := by
  rw [decode, strobeBit_of_lt_two h]

/-! ## All formats -/

/-- Settles O10, format by format; the strobe and RST have few enough words to name the word. -/
theorem wordsDecodeByTheirFields : Obligations.WordsDecodeByTheirFields := by
  refine ⟨fun w => ?cap, fun w => ⟨fun h => ?idle, fun h => ?read, fun h => ?write, fun h => ?rsvd⟩,
    fun w => ⟨fun h => ?zero, fun h => ?one, decode_int_of_lt_two⟩, fun w => ⟨fun h => ?reset, fun h => ?none⟩⟩
  case cap => rw [decode, decodeCap_eq_of_fields]
  case idle => rw [decode, decodeHost_of_op_idle h]
  case read => rw [decode, decodeHost_of_op_read h, extractLsb'_eq_ofNat_field]
  case write =>
    rw [decode, decodeHost_of_op_write h, extractLsb'_zero_eq_ofNat_mod, extractLsb'_eq_ofNat_field]
  case rsvd => rw [decode, decodeHost_of_op_rsvd h]
  case zero =>
    obtain rfl : w = 2 := BitVec.eq_of_toNat_eq h
    rfl
  case one =>
    obtain rfl : w = 3 := BitVec.eq_of_toNat_eq h
    rfl
  case reset =>
    obtain rfl : w = 1 := BitVec.eq_of_toNat_eq h
    rfl
  case none =>
    obtain rfl : w = 0 := BitVec.eq_of_toNat_eq h
    rfl

end Sys2Proof.Machine
end

section
/-! PROOFS. The family of 40_demodulator.md: the classes of an interval, INTERVAL case by case, and the operations that change nothing. -/

namespace Sys2Proof.Machine

/-! ## The class of an interval (40_demodulator.md R102) -/

/-- The class by the numbers the ticks stand for. -/
theorem classify_eq_of_windows (s : State) (n : Tick) : s.classify n =
    if s.oneMin.toNat ≤ n.toNat ∧ n.toNat ≤ s.oneMax.toNat then .half
    else if s.zeroMin.toNat ≤ n.toNat ∧ n.toNat ≤ s.zeroMax.toNat then .full
    else .invalid := by
  simp only [State.classify, inWindow_eq_true_iff]

theorem classify_eq_half_iff (s : State) (n : Tick) :
    s.classify n = .half ↔ s.oneMin.toNat ≤ n.toNat ∧ n.toNat ≤ s.oneMax.toNat := by
  rw [classify_eq_of_windows]
  split_ifs with hone <;> simp [hone]

theorem classify_eq_full_iff (s : State) (n : Tick) :
    s.classify n = .full ↔ ¬ (s.oneMin.toNat ≤ n.toNat ∧ n.toNat ≤ s.oneMax.toNat) ∧
      s.zeroMin.toNat ≤ n.toNat ∧ n.toNat ≤ s.zeroMax.toNat := by
  rw [classify_eq_of_windows]
  split_ifs with hone hzero
  · simp [hone]
  · simp [hone, hzero]
  · simp [hone, hzero]

theorem classify_eq_invalid_iff (s : State) (n : Tick) :
    s.classify n = .invalid ↔ ¬ (s.oneMin.toNat ≤ n.toNat ∧ n.toNat ≤ s.oneMax.toNat) ∧
      ¬ (s.zeroMin.toNat ≤ n.toNat ∧ n.toNat ≤ s.zeroMax.toNat) := by
  rw [classify_eq_of_windows]
  split_ifs with hone hzero
  · simp [hone]
  · simp [hone, hzero]
  · simp [hone, hzero]

/-- The capture side of a step works on a copy whose `frame_ready` is 0 and whose record is empty; INTERVAL
reads neither, so the core's fields are what INTERVAL makes of the state the step found. -/
theorem stepNext_interval_core {s : State} {n : Tick} {host : Instr}
    (h : decodeStep s.nextWords = .ports (.interval n) host) :
    (stepNext s).pending = (s.interval n).pending ∧ (stepNext s).ones = (s.interval n).ones ∧
    (stepNext s).pos = (s.interval n).pos ∧ (stepNext s).syncSeen = (s.interval n).syncSeen ∧
    (stepNext s).buf = (s.interval n).buf := by
  have hs : s.beginStep.arch = s.arch := rfl
  have harch := interval_arch hs n
  rw [← interval_clear_join s.beginStep n] at harch
  rw [stepNext_of_ports h]
  have hcore := And.intro (congrArg State.pending harch) <| And.intro (congrArg State.ones harch) <|
    And.intro (congrArg State.pos harch) <| And.intro (congrArg State.syncSeen harch) (congrArg State.buf harch)
  simpa [execNext] using hcore

/-- Settles O23: the classes by their windows, and an INTERVAL in a step by the same INTERVAL alone. -/
theorem intervalsAreClassifiedByWindow : Obligations.IntervalsAreClassifiedByWindow := by
  intro s n
  refine ⟨classify_eq_half_iff s n, classify_eq_full_iff s n, classify_eq_invalid_iff s n,
    fun hempty hc => ?_, fun hempty hc => ?_, fun host h => ?_⟩
  · obtain ⟨hlo, hhi⟩ := (classify_eq_half_iff s n).mp hc
    omega
  · obtain ⟨-, hlo, hhi⟩ := (classify_eq_full_iff s n).mp hc
    omega
  · exact ⟨_, _, exec_eq_next _ s, step_eq_next s, stepNext_interval_core h⟩

/-! ## INTERVAL by class and pending half-bit (40_demodulator.md R101) -/

section
variable {s : State} {n : Tick}

/-- The first half-cell of a pair waits for the second. -/
theorem interval_of_first_half (hc : s.classify n = .half) (hp : s.pending = false) : s.interval n =
    { s with edgeSel := !s.edgeSel, capRestart := true, pending := true } := by
  simpa [hc, hp] using interval_cases s n

/-- The second half-cell of a pair emits a 1. -/
theorem interval_of_second_half (hc : s.classify n = .half) (hp : s.pending = true) : s.interval n =
    State.pushBit { s with edgeSel := !s.edgeSel, capRestart := true, pending := false } true := by
  simpa [hc, hp] using interval_cases s n

/-- A full cell with nothing pending emits a 0. -/
theorem interval_of_full (hc : s.classify n = .full) (hp : s.pending = false) : s.interval n =
    State.pushBit { s with edgeSel := !s.edgeSel, capRestart := true } false := by
  simpa [hc, hp] using interval_cases s n

/-- A full cell while a half-bit is pending is an alignment fault (60_exceptions.md R202). -/
theorem interval_of_misaligned (hc : s.classify n = .full) (hp : s.pending = true) : s.interval n =
    { s with
      edgeSel := !s.edgeSel, capRestart := true, pos := 0, pending := false,
      events := s.events ++ [.fault .alignmentFault] } := by
  simpa [hc, hp] using interval_cases s n

/-- An interval in neither window is a signal timing fault (60_exceptions.md R202). -/
theorem interval_of_invalid (hc : s.classify n = .invalid) : s.interval n =
    { s with
      edgeSel := !s.edgeSel, capRestart := true, pos := 0, pending := false,
      events := s.events ++ [.fault .signalTimingFault] } := by
  simpa [hc] using interval_cases s n

end

theorem exec_interval_of_eq {s t : State} {n : Tick} (h : s.interval n = t) : exec (.interval n) s = .next t :=
  (exec_next_iff (.interval n) s t).mpr h.symm

/-- Settles O24: the class by its window, then the case of INTERVAL for that class and for `pending`. -/
theorem intervalActsByClassAndPending : Obligations.IntervalActsByClassAndPending := by
  intro s n
  refine ⟨fun hone => ?half, fun hone hzero => ?full, fun hone hzero => ?invalid⟩
  case half =>
    have hc := (classify_eq_half_iff s n).mpr hone
    exact ⟨fun hp => exec_interval_of_eq (interval_of_first_half hc hp),
      fun hp => ⟨_, exec_eq_next (.pushBit true) _, exec_interval_of_eq (interval_of_second_half hc hp)⟩⟩
  case full =>
    have hc := (classify_eq_full_iff s n).mpr ⟨hone, hzero⟩
    exact ⟨fun hp => ⟨_, exec_eq_next (.pushBit false) _, exec_interval_of_eq (interval_of_full hc hp)⟩,
      fun hp => ⟨_, exec_interval_of_eq (interval_of_misaligned hc hp)⟩⟩
  case invalid =>
    have hc := (classify_eq_invalid_iff s n).mpr ⟨hone, hzero⟩
    exact ⟨_, exec_interval_of_eq (interval_of_invalid hc)⟩

/-! ## The operations that change nothing (40_demodulator.md R100, 43_host_interface.md R170, R173) -/

/-- Settles O35: each drives its own port's output to 0 and is done. -/
theorem idleOperationsChangeNothing : Obligations.IdleOperationsChangeNothing := fun s =>
  ⟨exec_eq_next .capIdle s, exec_eq_next .hostIdle s, exec_eq_next .hostRsvd s⟩

end Sys2Proof.Machine
end

section
/-! PROOFS. The family of 41_frame_assembler.md: what PUSH_BIT does to the run counter, the buffer and the position. -/

namespace Sys2Proof.Machine

/-! ## The run counter (41_frame_assembler.md R121, R122) -/

theorem pushBit_ones_of_not_detects {s : State} {b : Bool} (h : ¬ Detects s b) :
    (s.pushBit b).ones = onesAfter s b := by
  obtain ⟨hd, e⟩ | ⟨-, -, e⟩ | ⟨-, -, -, e⟩ | ⟨-, -, -, e⟩ := pushBit_cases s b
  · exact absurd hd h
  all_goals rw [e]

theorem onesAfter_true_toNat {s : State} (h : s.ones.toNat < 11) :
    (onesAfter s true).toNat = s.ones.toNat + 1 := by
  show (s.ones + 1).toNat = s.ones.toNat + 1
  bv_omega

/-- An operation that is neither RESET nor the emission of a bit leaves the run counter. -/
theorem execNext_ones_of_emits_none {i : Instr} {s : State} (hreset : i ≠ .reset) (hpush : ∀ b, i ≠ .pushBit b)
    (h : s.emitted i = none) : (execNext i s).ones = s.ones := by
  cases i with
  | interval n =>
    obtain ⟨_, _, _, -, e⟩ := interval_of_emits_none h
    show (s.interval n).ones = s.ones
    rw [e]
  | regWrite idx v =>
    show (s.writeReg idx v).ones = s.ones
    obtain ⟨-, e⟩ | ⟨-, e⟩ | ⟨-, e⟩ | ⟨-, e⟩ | ⟨-, e⟩ := writeReg_cases s idx v <;> rw [e]
  | pushBit b => exact absurd rfl (hpush b)
  | reset => exact absurd rfl hreset
  | capIdle | hostIdle | regRead | hostRsvd => rfl

/-- Settles O26, by whether the bit is a sync detection. -/
theorem pushBitTracksSync : Obligations.PushBitTracksSync := by
  intro s
  refine ⟨⟨_, exec_eq_next _ s, ?zero⟩, fun hlt => ⟨_, exec_eq_next _ s, ?one⟩, fun h11 => ⟨s.events ++ [.sync], ?sync⟩,
    fun i hreset hpush he => ⟨_, exec_eq_next i s, execNext_ones_of_emits_none hreset hpush he⟩⟩
  case zero =>
    have hd : ¬ Detects s false := fun h => Bool.false_ne_true h.1
    exact pushBit_ones_of_not_detects hd
  case one =>
    have hd : ¬ Detects s true := fun h => hlt.ne ((detects_iff s true).mp h).2
    exact (congrArg BitVec.toNat (pushBit_ones_of_not_detects hd)).trans (onesAfter_true_toNat hlt)
  case sync =>
    have hd : Detects s true := (detects_iff s true).mpr ⟨rfl, h11⟩
    exact (exec_next_iff (.pushBit true) s _).mpr (pushBit_of_detects s true hd).symm

/-! ## The buffer (41_frame_assembler.md R123) -/

theorem shiftBuf_getElem (c : Bool) (b : FrameBuf) (k : Nat) (hk : k < 8) :
    (shiftBuf c b)[k] = shiftByte (if h : k = 7 then c else b[k + 1].getLsbD 0) b[k] := by
  interval_cases k <;> rfl

/-- The byte form of the shift moves every bit of the buffer value one down. -/
theorem bufValue_shiftBuf_getLsbD (c : Bool) (b : FrameBuf) (i : Nat) (hi : i < 64) :
    (bufValue (shiftBuf c b)).getLsbD i = if i = 63 then c else (bufValue b).getLsbD (i + 1) := by
  rw [bufValue_getLsbD _ i hi, shiftBuf_getElem _ _ _ (by omega), shiftByte_getLsbD _ _ _ (by omega)]
  by_cases htop : i = 63
  · subst htop; rfl
  rw [if_neg htop, bufValue_getLsbD b (i + 1) (by omega)]
  by_cases hlast : i % 8 = 7
  · have hbyte : (i + 1) / 8 = i / 8 + 1 := by omega
    have hbit : (i + 1) % 8 = 0 := by omega
    have hne : i / 8 ≠ 7 := by omega
    simp only [hlast, hbyte, hbit, hne, if_true, dif_neg, not_false_eq_true]
  · have hbyte : (i + 1) / 8 = i / 8 := by omega
    have hbit : (i + 1) % 8 = i % 8 + 1 := by omega
    simp only [hlast, hbyte, hbit, if_false]

theorem bufValue_shiftBuf (c : Bool) (b : FrameBuf) :
    bufValue (shiftBuf c b) = BitVec.cons c ((bufValue b).extractLsb' 1 63) := by
  apply BitVec.eq_of_getLsbD_eq
  intro i hi
  rw [bufValue_shiftBuf_getLsbD c b i hi, BitVec.getLsbD_cons]
  by_cases htop : i = 63
  · rw [if_pos htop, if_pos htop]
  · have hlow : i < 63 := by omega
    rw [if_neg htop, if_neg htop, BitVec.getLsbD_extractLsb', Nat.add_comm 1 i, decide_eq_true hlow, Bool.true_and]

theorem bufValue_shiftBuf_toNat (c : Bool) (b : FrameBuf) :
    (bufValue (shiftBuf c b)).toNat = (bufValue b).toNat / 2 + c.toNat * 2 ^ 63 := by
  have hlow : (bufValue b).toNat / 2 < 2 ^ 63 := by omega
  rw [bufValue_shiftBuf, BitVec.toNat_cons', BitVec.extractLsb'_toNat, Nat.shiftRight_eq_div_pow, Nat.pow_one,
    Nat.mod_eq_of_lt hlow, Nat.shiftLeft_eq, Nat.add_comm]

theorem pushBit_buf_of_detects {s : State} {b : Bool} (h : Detects s b) : (s.pushBit b).buf = s.buf := by
  rw [pushBit_of_detects s b h]

theorem pushBit_buf_of_not_detects {s : State} {b : Bool} (h : ¬ Detects s b) :
    (s.pushBit b).buf = bufAfter s b := by
  obtain ⟨hd, e⟩ | ⟨-, -, e⟩ | ⟨-, hp, -, e⟩ | ⟨-, hp, -, e⟩ := pushBit_cases s b
  · exact absurd hd h
  · rw [e]
  · rw [e, bufAfter_of_completes s b hp]
  · rw [e, bufAfter_of_completes s b hp]

theorem bufAfter_of_pos_ge {s : State} (b : Bool) (h : 64 ≤ s.pos.toNat) : bufAfter s b = s.buf :=
  if_neg (by bv_omega)

theorem bufAfter_of_pos_le {s : State} (b : Bool) (h : s.pos.toNat ≤ 63) : bufAfter s b = shiftBuf b s.buf :=
  if_pos (by bv_omega)

/-- Settles O27, by whether the bit is a sync detection and whether `pos` is in the data region. -/
theorem pushBitShiftsTheBuffer : Obligations.PushBitShiftsTheBuffer := by
  intro s b
  rw [← detects_iff]
  refine ⟨s.pushBit b, exec_eq_next (.pushBit b) s, fun hkeep => ?keeps, fun hd hpos => ?shifts⟩
  case keeps =>
    by_cases hd : Detects s b
    · exact pushBit_buf_of_detects hd
    · have hpos := hkeep.resolve_left hd
      rw [pushBit_buf_of_not_detects hd, bufAfter_of_pos_ge b hpos]
  case shifts =>
    rw [pushBit_buf_of_not_detects hd, bufAfter_of_pos_le b hpos, bufValue_shiftBuf_toNat]

/-! ## The position and the completion of a window (41_frame_assembler.md R124, R125) -/

theorem pos_succ_eq_frameBits_iff (s : State) : s.pos + 1 = 80 ↔ s.pos.toNat = 79 := by
  constructor
  · intro h; bv_omega
  · intro h; bv_omega

/-- Settles O28: below 79 the bit counts, at 79 it completes the window, with or without sync. -/
theorem pushBitCountsAndCompletes : Obligations.PushBitCountsAndCompletes := by
  intro s b hd _
  rw [← detects_iff] at hd
  have hend := pos_succ_eq_frameBits_iff s
  refine ⟨s.pushBit b, exec_eq_next (.pushBit b) s, fun hlt => ?counts, fun h79 hs => ?publishes, fun h79 hs => ?discards⟩
  case counts => rw [pushBit_of_counts s b hd fun h => hlt.ne (hend.mp h)]
  case publishes => rw [pushBit_of_publishes s b hd (hend.mpr h79) hs]
  case discards => rw [pushBit_of_discards s b hd (hend.mpr h79) hs]

end Sys2Proof.Machine
end

section
/-! PROOFS. The family of 42_bcd_extractor.md: what a publish latches, that nothing else touches the latch, and that the bits no field names do not matter. -/

namespace Sys2Proof.Machine

/-! ## When the published string and flag change (42_bcd_extractor.md R150, R166) -/

/-- A bit that completes a window with sync latches the buffer's string and flag and sets `frame_ready`. -/
theorem pushBit_latches {s : State} {b : Bool} (hpos : s.pos.toNat = 79) (hs : s.syncSeen = true)
    (hd : ¬ (b = true ∧ s.ones.toNat = 11)) :
    (s.pushBit b).outStr = formatFrame s.buf ∧ (s.pushBit b).outDf = dropFrame s.buf ∧
    (s.pushBit b).frameReady = true := by
  rw [← detects_iff] at hd
  rw [pushBit_of_publishes s b hd ((pos_succ_eq_frameBits_iff s).mpr hpos) hs]
  exact ⟨rfl, rfl, rfl⟩

/-- Any other bit leaves them. -/
theorem pushBit_keeps_latch {s : State} {b : Bool}
    (h : ¬ (¬ (b = true ∧ s.ones.toNat = 11) ∧ s.pos.toNat = 79 ∧ s.syncSeen = true)) :
    (s.pushBit b).outStr = s.outStr ∧ (s.pushBit b).outDf = s.outDf := by
  rw [← detects_iff, ← pos_succ_eq_frameBits_iff] at h
  obtain ⟨-, e⟩ | ⟨-, -, e⟩ | ⟨hd, hp, hs, -⟩ | ⟨-, -, -, e⟩ := pushBit_cases s b
  case inr.inr.inl => exact absurd ⟨hd, hp, hs⟩ h
  all_goals rw [e]; exact ⟨rfl, rfl⟩

theorem interval_keeps_latch {s : State} {n : Tick} (h : ¬ s.Publishes (.interval n)) :
    (s.interval n).outStr = s.outStr ∧ (s.interval n).outDf = s.outDf := by
  cases he : s.emitted (.interval n) with
  | none =>
    obtain ⟨_, _, _, -, e⟩ := interval_of_emits_none he
    rw [e]
    exact ⟨rfl, rfl⟩
  | some b =>
    rw [interval_of_emits he]
    refine pushBit_keeps_latch fun ⟨hd, hpos, hs⟩ => h ⟨⟨?emits, ?noSync, hpos⟩, hs⟩
    case emits => simp [he]
    case noSync => simpa [State.DetectsSync, he] using hd

/-- Settles O18: the step's string and flag are its capture side's, which keeps them unless it publishes. -/
theorem outputLatchChangesOnlyAtPublish : Obligations.OutputLatchChangesOnlyAtPublish := by
  intro s cap host h hpub
  refine ⟨stepNext s, step_eq_next s, ?_⟩
  rw [stepNext_of_ports h]
  obtain rfl | ⟨n, rfl⟩ := cap_of_decodeStep_ports h
  · exact ⟨rfl, rfl⟩
  · exact interval_keeps_latch (s := s.beginStep.setFrameReady false) hpub

/-! ## The fields as bits of the buffer value (42_bcd_extractor.md R151 to R159) -/

/-- The low bits of a byte of the buffer, in the buffer value. -/
theorem byteField_eq_valueField (b : FrameBuf) (k w : Nat) (hk : k < 8) (hw : w ≤ 8) :
    b[k].extractLsb' 0 w = (bufValue b).extractLsb' (8 * k) w := by
  apply BitVec.eq_of_getLsbD_eq
  intro i hi
  have hbyte : (8 * k + i) / 8 = k := by omega
  have hbit : (8 * k + i) % 8 = i := by omega
  rw [BitVec.getLsbD_extractLsb', BitVec.getLsbD_extractLsb', bufValue_getLsbD b (8 * k + i) (by omega)]
  simp only [hbyte, hbit, Nat.zero_add]

theorem dropFrame_eq_of_value (b : FrameBuf) : dropFrame b = (bufValue b).getLsbD 10 :=
  (bufValue_getLsbD b 10 (by decide)).symm

theorem formatFrame_eq_of_value (b : FrameBuf) :
    let v := bufValue b
    formatFrame b =
      #v[digit (v.extractLsb' 56 2), digit (v.extractLsb' 48 4), colon,
         digit (v.extractLsb' 40 3), digit (v.extractLsb' 32 4), colon,
         digit (v.extractLsb' 24 3), digit (v.extractLsb' 16 4), separator (v.getLsbD 10),
         digit (v.extractLsb' 8 2), digit (v.extractLsb' 0 4)] := by
  have field (k w : Nat) (hk : k < 8 := by decide) (hw : w ≤ 8 := by decide) := byteField_eq_valueField b k w hk hw
  simp only [formatFrame, dropFrame_eq_of_value, tensOfHours, field 7 2, unitsOfHours, field 6 4, tensOfMinutes,
    field 5 3, unitsOfMinutes, field 4 4, tensOfSeconds, field 3 3, unitsOfSeconds, field 2 4, tensOfFrames, field 1 2,
    unitsOfFrames, field 0 4]

/-! ## The characters by their codes (42_bcd_extractor.md R160, R162) -/

/-- A field is at most 7 bits wide, so its character never wraps. -/
theorem digit_valueField_toNat (v : BitVec 64) (start w : Nat) (hw : w ≤ 7) :
    (digit (v.extractLsb' start w)).toNat = 0x30 + v.toNat / 2 ^ start % 2 ^ w := by
  have hfield : v.toNat / 2 ^ start % 2 ^ w < 2 ^ 7 :=
    (Nat.mod_lt _ (Nat.two_pow_pos w)).trans_le (Nat.pow_le_pow_right (by decide) hw)
  have hbase : (0x30#8).toNat = 0x30 := rfl
  rw [digit, BitVec.toNat_add, BitVec.toNat_setWidth, BitVec.extractLsb'_toNat, Nat.shiftRight_eq_div_pow, hbase]
  omega

theorem getLsbD_eq_true_iff_div_mod {w : Nat} (v : BitVec w) (i : Nat) :
    v.getLsbD i = true ↔ v.toNat / 2 ^ i % 2 = 1 := by
  rw [← BitVec.testBit_toNat, Nat.testBit_eq_decide_div_mod_eq, decide_eq_true_iff]

theorem colon_toNat : colon.toNat = 0x3A := rfl

theorem separator_toNat (df : Bool) : (separator df).toNat = if df = true then 0x3B else 0x3A := by
  cases df <;> rfl

theorem formatFrame_toNat (b : FrameBuf) :
    let v := (bufValue b).toNat
    (formatFrame b).toList.map BitVec.toNat =
      [0x30 + v / 2 ^ 56 % 4, 0x30 + v / 2 ^ 48 % 16, 0x3A,
       0x30 + v / 2 ^ 40 % 8, 0x30 + v / 2 ^ 32 % 16, 0x3A,
       0x30 + v / 2 ^ 24 % 8, 0x30 + v / 2 ^ 16 % 16, if v / 2 ^ 10 % 2 = 1 then 0x3B else 0x3A,
       0x30 + v / 2 ^ 8 % 4, 0x30 + v % 16] := by
  have char (start w : Nat) (hw : w ≤ 7 := by decide) := digit_valueField_toNat (bufValue b) start w hw
  simp only [formatFrame_eq_of_value, Vector.toList_mk, List.map_cons, List.map_nil, char _ 2, char _ 3, char _ 4,
    colon_toNat, separator_toNat, getLsbD_eq_true_iff_div_mod, Nat.pow_zero, Nat.div_one, Nat.reducePow]

/-- Settles O30: the latched string and flag are the buffer's, here read from its 64-bit value. -/
theorem publishFormatsTheFrame : Obligations.PublishFormatsTheFrame := by
  intro s b hpos hs hd
  obtain ⟨hstr, hdf, -⟩ := pushBit_latches hpos hs hd
  refine ⟨s.pushBit b, exec_eq_next (.pushBit b) s, ?_⟩
  rw [hstr, hdf, dropFrame_eq_of_value]
  exact ⟨formatFrame_toNat s.buf, getLsbD_eq_true_iff_div_mod (bufValue s.buf) 10⟩

/-! ## The bits no field names (42_bcd_extractor.md R163) -/

section
variable {v v' mask : BitVec 64} (h : v &&& mask = v' &&& mask)
include h

theorem getLsbD_eq_of_and_eq {i : Nat} (hi : mask.getLsbD i = true) : v.getLsbD i = v'.getLsbD i := by
  have hbit := congrArg (BitVec.getLsbD · i) h
  simpa only [BitVec.getLsbD_and, hi, Bool.and_true] using hbit

theorem extractLsb'_eq_of_and_eq (start w : Nat) (hw : ∀ i < w, mask.getLsbD (start + i) = true) :
    v.extractLsb' start w = v'.extractLsb' start w := by
  apply BitVec.eq_of_getLsbD_eq
  intro i hi
  rw [BitVec.getLsbD_extractLsb', BitVec.getLsbD_extractLsb', getLsbD_eq_of_and_eq h (hw i hi)]

end

/-- The bits R151 to R159 name determine the string and the flag. -/
theorem published_eq_of_named_bits {b b' : FrameBuf}
    (h : bufValue b &&& 0x030F070F070F070F = bufValue b' &&& 0x030F070F070F070F) :
    formatFrame b = formatFrame b' ∧ dropFrame b = dropFrame b' := by
  have field := extractLsb'_eq_of_and_eq h
  have hdf : (bufValue b).getLsbD 10 = (bufValue b').getLsbD 10 := getLsbD_eq_of_and_eq h (by decide)
  rw [formatFrame_eq_of_value, formatFrame_eq_of_value, dropFrame_eq_of_value, dropFrame_eq_of_value, hdf,
    field 56 2 (by decide), field 48 4 (by decide), field 40 3 (by decide), field 32 4 (by decide),
    field 24 3 (by decide), field 16 4 (by decide), field 8 2 (by decide), field 0 4 (by decide)]
  exact ⟨rfl, rfl⟩

/-- Settles O31: both publishes latch what the named bits determine. -/
theorem publishIgnoresTheOtherBits : Obligations.PublishIgnoresTheOtherBits := by
  intro s other b hmask hpos hs hd
  obtain ⟨hstr, hdf, hready⟩ := pushBit_latches hpos hs hd
  obtain ⟨hstr', hdf', hready'⟩ := pushBit_latches (s := { s with buf := other }) hpos hs hd
  obtain ⟨estr, edf⟩ := published_eq_of_named_bits hmask
  exact ⟨_, _, exec_eq_next _ _, exec_eq_next _ _, (hstr.trans estr).trans hstr'.symm,
    (hdf.trans edf).trans hdf'.symm, hready, hready'⟩

end Sys2Proof.Machine
end

section
/-! PROOFS. The family of 43_host_interface.md: what a read returns, what a write changes, and who changes `frame_ready` and the thresholds in a step. -/

namespace Sys2Proof.Machine

/-! ## Host reads (43_host_interface.md R171) -/

theorem exec_regRead_of_eq {s : State} {idx : RegIdx} {r : RegWord} (h : s.readReg idx = r) :
    exec (.regRead idx) s = .next (s.setRdata r) :=
  h ▸ exec_eq_next (.regRead idx) s

theorem statusWord_eq_of_flags (s : State) :
    s.statusWord = BitVec.ofNat 16 (s.frameReady.toNat + 2 * s.outDf.toNat) := by
  unfold State.statusWord
  cases s.frameReady <;> cases s.outDf <;> rfl

theorem idxTcChar_toNat (n : Fin 11) : (idxTcChar n).toNat = 0x10 + n.val := by
  revert n; decide

/-- The characters stand at 0x10 to 0x1A (10_state.md R41). -/
theorem readReg_of_char (s : State) {idx : RegIdx} {n : Fin 11} (h : idx.toNat = 0x10 + n.val) :
    s.readReg idx = BitVec.ofNat 16 (s.outStr[n]).toNat := by
  obtain rfl : idx = idxTcChar n := BitVec.eq_of_toNat_eq (h.trans (idxTcChar_toNat n).symm)
  have hge : 5 ≤ (idxTcChar n).toNat := by omega
  rw [readReg_of_ge s _ hge, tcCharOf_idxTcChar]
  exact (BitVec.ofNat_toNat 16 s.outStr[n]).symm

/-- Every other index above STATUS is reserved (10_state.md R35). -/
theorem readReg_of_reserved (s : State) {idx : RegIdx}
    (h : (0x05 ≤ idx.toNat ∧ idx.toNat ≤ 0x0F) ∨ 0x1B ≤ idx.toNat) : s.readReg idx = 0 := by
  have hchar : tcCharOf idx = none := dif_neg (by omega)
  have hge : 5 ≤ idx.toNat := by omega
  rw [readReg_of_ge s idx hge, hchar]

/-- A read in a step sees the registers as the step found them. -/
theorem stepNext_read_rdata {s : State} {cap : Instr} {idx : RegIdx}
    (h : decodeStep s.nextWords = .ports cap (.regRead idx)) : (stepNext s).rdata = s.readReg idx := by
  rw [stepNext_of_ports h]
  exact readReg_eq_of_registers rfl rfl rfl rfl rfl rfl rfl idx

/-- Settles O33, register by register. -/
theorem regReadReturnsTheRegister : Obligations.RegReadReturnsTheRegister := by
  intro s
  refine ⟨exec_regRead_of_eq rfl, exec_regRead_of_eq rfl, exec_regRead_of_eq rfl, exec_regRead_of_eq rfl,
    exec_regRead_of_eq (statusWord_eq_of_flags s), fun idx n h => exec_regRead_of_eq (readReg_of_char s h),
    fun idx h => exec_regRead_of_eq (readReg_of_reserved s h), fun cap idx h => ?inStep⟩
  case inStep => exact ⟨_, _, exec_eq_next (.regRead idx) s, step_eq_next s, stepNext_read_rdata h⟩

/-! ## Host writes (43_host_interface.md R172, R175) -/

theorem clearsReady_eq_true_iff (idx : RegIdx) (v : RegWord) :
    clearsReady idx v = true ↔ idx = 0x04 ∧ v.toNat % 2 = 1 := by
  rw [clearsReady, Bool.and_eq_true, beq_iff_eq, getLsbD_eq_true_iff_div_mod, Nat.pow_zero, Nat.div_one]

theorem writeReg_of_clears (s : State) {idx : RegIdx} {v : RegWord} (h : clearsReady idx v = true) :
    s.writeReg idx v = s.setFrameReady false := by
  obtain ⟨rfl, -⟩ := (clearsReady_eq_true_iff idx v).mp h
  show s.setFrameReady (s.frameReady && !clearsReady 0x04 v) = s.setFrameReady false
  rw [h, Bool.not_true, Bool.and_false]

/-- Above the thresholds a write that does not consume is ignored. -/
theorem writeReg_of_ignored (s : State) {idx : RegIdx} {v : RegWord} (hidx : 4 ≤ idx.toNat)
    (h : clearsReady idx v = false) : s.writeReg idx v = s := by
  obtain ⟨rfl, -⟩ | ⟨rfl, -⟩ | ⟨rfl, -⟩ | ⟨rfl, -⟩ | ⟨-, e⟩ := writeReg_cases s idx v
  case inr.inr.inr.inr => rw [e, h, Bool.not_false, Bool.and_true]
  all_goals exact absurd hidx (by decide)

theorem exec_regWrite_of_eq {s t : State} {idx : RegIdx} {v : RegWord} (h : s.writeReg idx v = t) :
    exec (.regWrite idx v) s = .next (t.setRdata 0) :=
  h ▸ exec_eq_next (.regWrite idx v) s

/-- Settles O34: each threshold, then STATUS with and without a consume, then the indices above it. -/
theorem regWriteWritesTheRegister : Obligations.RegWriteWritesTheRegister := by
  intro s v
  refine ⟨exec_regWrite_of_eq rfl, exec_regWrite_of_eq rfl, exec_regWrite_of_eq rfl, exec_regWrite_of_eq rfl,
    fun hv => ?consume, fun hv => ?status, fun idx hidx => ?above⟩
  case consume =>
    have hclear : clearsReady 0x04 v = true := (clearsReady_eq_true_iff 0x04 v).mpr ⟨rfl, hv⟩
    exact exec_regWrite_of_eq (writeReg_of_clears s hclear)
  case status =>
    have hkeep : clearsReady 0x04 v = false := by
      rw [← Bool.not_eq_true, clearsReady_eq_true_iff]; omega
    exact exec_regWrite_of_eq (writeReg_of_ignored s (by decide) hkeep)
  case above =>
    have hkeep : clearsReady idx v = false := by
      rw [← Bool.not_eq_true, clearsReady_eq_true_iff]
      rintro ⟨rfl, -⟩
      exact absurd hidx (by decide)
    exact exec_regWrite_of_eq (writeReg_of_ignored s (by omega) hkeep)

/-! ## The thresholds in a step (43_host_interface.md R174) -/

/-- Settles O17: the step's thresholds are its host side's, and of the host operations only a write has one. -/
theorem calibrationChangesOnlyByHostWrite : Obligations.CalibrationChangesOnlyByHostWrite := by
  intro s t cap host h ht
  rw [(step_next_iff s t).mp ht, stepNext_of_ports h]
  obtain rfl | ⟨idx, rfl⟩ | ⟨idx, v, rfl⟩ | rfl := host_of_decodeStep_ports h
  case inr.inr.inl =>
    obtain ⟨hidx, e⟩ | ⟨hidx, e⟩ | ⟨hidx, e⟩ | ⟨hidx, e⟩ | ⟨-, e⟩ := writeReg_cases s.beginStep idx v
    case inr.inr.inr.inr => simp [execNext, e]
    all_goals simp only [execNext, e]; simp [hidx]
  all_goals simp [execNext]

/-! ## `frame_ready` in a step (43_host_interface.md R177) -/

theorem pushBit_frameReady_iff (s : State) (b : Bool) : (s.pushBit b).frameReady = true ↔
    (¬ Detects s b ∧ s.pos + 1 = 80 ∧ s.syncSeen = true) ∨ s.frameReady = true := by
  obtain ⟨hd, e⟩ | ⟨-, hp, e⟩ | ⟨hd, hp, hs, e⟩ | ⟨-, -, hs, e⟩ := pushBit_cases s b
  · rw [e]; exact (or_iff_right fun ⟨h, _⟩ => h hd).symm
  · rw [e]; exact (or_iff_right fun ⟨_, h, _⟩ => hp h).symm
  · rw [e]; exact iff_of_true rfl (.inl ⟨hd, hp, hs⟩)
  · rw [e]; exact (or_iff_right fun ⟨_, _, h⟩ => Bool.eq_false_iff.mp hs h).symm

/-- An INTERVAL sets `frame_ready` exactly if it publishes, and never clears it. -/
theorem interval_frameReady_iff (s : State) (n : Tick) : (s.interval n).frameReady = true ↔
    s.Publishes (.interval n) ∨ s.frameReady = true := by
  unfold State.Publishes State.Completes State.DetectsSync
  cases h : s.emitted (.interval n) with
  | none => obtain ⟨_, _, _, -, e⟩ := interval_of_emits_none h; simp [e]
  | some b =>
    rw [interval_of_emits h, pushBit_frameReady_iff, detects_iff, pos_succ_eq_frameBits_iff]
    simp [and_assoc]

/-- The capture side starts from `frame_ready` = 0, so afterwards the flag tells whether it published. -/
theorem execNext_cap_frameReady_iff {w : StepWords} {cap host : Instr} (h : decodeStep w = .ports cap host)
    (s : State) : (execNext cap (s.setFrameReady false)).frameReady = true ↔ s.Publishes cap := by
  obtain rfl | ⟨n, rfl⟩ := cap_of_decodeStep_ports h
  · simp [execNext, State.Publishes, State.Completes, State.emitted]
  · exact (interval_frameReady_iff (s.setFrameReady false) n).trans (or_iff_left Bool.false_ne_true)

/-- A host write leaves `frame_ready` unless it consumes. -/
theorem writeReg_frameReady (s : State) (idx : RegIdx) (v : RegWord) :
    (s.writeReg idx v).frameReady = (s.frameReady && !clearsReady idx v) := by
  obtain ⟨rfl, e⟩ | ⟨rfl, e⟩ | ⟨rfl, e⟩ | ⟨rfl, e⟩ | ⟨-, e⟩ := writeReg_cases s idx v <;> rw [e]
  all_goals exact (Bool.and_true s.frameReady).symm

theorem execNext_host_frameReady_iff {w : StepWords} {cap host : Instr} (h : decodeStep w = .ports cap host)
    (s : State) : (execNext host s).frameReady = true ↔
      s.frameReady = true ∧ ¬ ∃ v : RegWord, host = .regWrite 0x04 v ∧ v.toNat % 2 = 1 := by
  obtain rfl | ⟨idx, rfl⟩ | ⟨idx, v, rfl⟩ | rfl := host_of_decodeStep_ports h
  case inr.inr.inl =>
    show (s.writeReg idx v).frameReady = true ↔ _
    rw [writeReg_frameReady, Bool.and_eq_true, Bool.not_eq_true', ← Bool.not_eq_true, clearsReady_eq_true_iff]
    simp [and_comm]
  all_goals simp [execNext]

/-- Settles O15: the step's flag is what its capture side sets or its host side leaves. -/
theorem settingFrameReadyWins : Obligations.SettingFrameReadyWins := by
  intro s cap host h
  refine ⟨stepNext s, step_eq_next s, ?_⟩
  rw [stepNext_of_ports h, joinSides_frameReady, Bool.or_eq_true, execNext_cap_frameReady_iff h,
    execNext_host_frameReady_iff h]
  exact Iff.rfl

end Sys2Proof.Machine
end

section
/-! PROOFS. The family of 70_reset_and_hazards.md: a reset step is RESET alone, and the consistent drain reads one frame. -/

namespace Sys2Proof.Machine

/-! ## A reset step (70_reset_and_hazards.md R220) -/

theorem decodeStep_of_rst_one {w : StepWords} (h : w.rst = 1) : decodeStep w = .reset := if_pos h

/-- Settles O2: the words decode to RESET alone, which leaves the reset values. -/
theorem resetStepIgnoresBothPorts : Obligations.ResetStepIgnoresBothPorts := by
  intro s h
  refine ⟨stepNext s, step_eq_next s, ?_⟩
  rw [stepNext_of_reset (decodeStep_of_rst_one h)]
  exact execNext_reset_hasResetValues s.beginStep

/-! ## The published frame and `frame_ready` in a step of a run (43_host_interface.md R177) -/

theorem decodeStep_of_rst_zero {w : StepWords} (h : w.rst = 0) :
    decodeStep w = .ports (decodeCap w.cap) (decodeHost w.host) :=
  if_neg (by rw [h]; decide)

theorem step_setInputs_singleton (s : State) (w : StepWords) :
    step (s.setInputs [w]) = .next ((s.stepWith w).setInputs []) := by
  rw [step_eq_next, stepNext_cons]

theorem stepWith_frameReady_iff (s : State) {w : StepWords} (hw : w.rst = 0) :
    (s.stepWith w).frameReady = true ↔ s.Publishes (decodeCap w.cap) ∨
      (s.frameReady = true ∧ ¬ ∃ v : RegWord, decodeHost w.host = .regWrite 0x04 v ∧ v.toNat % 2 = 1) := by
  obtain ⟨t, ht, hready⟩ := settingFrameReadyWins (s.setInputs [w]) _ _ (decodeStep_of_rst_zero hw)
  obtain rfl := Host.Outcome.next.inj ((step_setInputs_singleton s w).symm.trans ht)
  exact hready

/-- A step that ends with `frame_ready` = 0 did not publish, for the set wins; so it left string and flag. -/
theorem stepWith_keeps_latch_of_not_ready {s : State} {w : StepWords} (hw : w.rst = 0)
    (h : (s.stepWith w).frameReady = false) :
    (s.stepWith w).outStr = s.outStr ∧ (s.stepWith w).outDf = s.outDf := by
  have hpub : ¬ s.Publishes (decodeCap w.cap) := fun hp =>
    Bool.eq_false_iff.mp h ((stepWith_frameReady_iff s hw).mpr (.inl hp))
  obtain ⟨t, ht, hlatch⟩ := outputLatchChangesOnlyAtPublish (s.setInputs [w]) _ _ (decodeStep_of_rst_zero hw) hpub
  obtain rfl := Host.Outcome.next.inj ((step_setInputs_singleton s w).symm.trans ht)
  exact hlatch

/-! ## Runs of host reads -/

/-- A step's words without reset whose host word reads register `idx`. -/
def ReadsRegister (w : StepWords) (idx : RegIdx) : Prop := w.rst = 0 ∧ decodeHost w.host = .regRead idx

theorem stepWith_rdata_of_reads (s : State) {w : StepWords} {idx : RegIdx} (hw : ReadsRegister w idx) :
    (s.stepWith w).rdata = s.readReg idx := by
  obtain ⟨hrst, hread⟩ := hw
  have hdec : decodeStep (s.setInputs [w]).nextWords = .ports (decodeCap w.cap) (.regRead idx) :=
    hread ▸ decodeStep_of_rst_zero hrst
  have hval := stepNext_read_rdata hdec
  rwa [stepNext_cons] at hval

/-- No read clears `frame_ready`. -/
theorem not_ready_of_stepWith_read {s : State} {w : StepWords} {idx : RegIdx} (hw : ReadsRegister w idx)
    (h : (s.stepWith w).frameReady = false) : s.frameReady = false := by
  obtain ⟨hrst, hread⟩ := hw
  refine Bool.eq_false_iff.mpr fun hs =>
    Bool.eq_false_iff.mp h ((stepWith_frameReady_iff s hrst).mpr (.inr ⟨hs, ?_⟩))
  rintro ⟨v, hwrite, -⟩
  exact Instr.noConfusion (hread.symm.trans hwrite)

/-- If `frame_ready` is 0 after a run of reads, it was 0 all along, and nothing was published. -/
theorem feed_reads_of_not_ready {s : State} {rs : List StepWords} (hrs : ∀ r ∈ rs, ∃ idx, ReadsRegister r idx)
    (h : (s.feed rs).frameReady = false) :
    s.frameReady = false ∧ (s.feed rs).outStr = s.outStr ∧ (s.feed rs).outDf = s.outDf := by
  induction rs generalizing s with
  | nil => exact ⟨h, rfl, rfl⟩
  | cons w rs ih =>
    obtain ⟨⟨idx, hw⟩, htail⟩ := List.forall_mem_cons.mp hrs
    rw [feed_cons] at h ⊢
    obtain ⟨hready, hstr, hdf⟩ := ih htail h
    obtain ⟨kstr, kdf⟩ := stepWith_keeps_latch_of_not_ready hw.1 hready
    exact ⟨not_ready_of_stepWith_read hw hready, hstr.trans kstr, hdf.trans kdf⟩

/-- After any first step without reset and then reads that end with `frame_ready` = 0, the published frame has
been the one at the start all along. -/
theorem feed_take_keeps_latch {s : State} {w : StepWords} {rs : List StepWords} (hw : w.rst = 0)
    (hrs : ∀ r ∈ rs, ∃ idx, ReadsRegister r idx) (h : (s.feed (w :: rs)).frameReady = false) (k : Nat) :
    (s.feed ((w :: rs).take k)).outStr = s.outStr ∧ (s.feed ((w :: rs).take k)).outDf = s.outDf := by
  cases k with
  | zero => exact ⟨rfl, rfl⟩
  | succ k =>
    rw [feed_cons, ← List.take_append_drop k rs, feed_append] at h
    obtain ⟨hmid, -⟩ := feed_reads_of_not_ready (fun r hmem => hrs r (List.mem_of_mem_drop hmem)) h
    obtain ⟨hfirst, hstr, hdf⟩ := feed_reads_of_not_ready (fun r hmem => hrs r (List.mem_of_mem_take hmem)) hmid
    obtain ⟨kstr, kdf⟩ := stepWith_keeps_latch_of_not_ready hw hfirst
    rw [List.take_succ_cons, feed_cons]
    exact ⟨hstr.trans kstr, hdf.trans kdf⟩

theorem feed_take_succ_rdata {s : State} {ws : List StepWords} {k : Nat} {w : StepWords} {idx : RegIdx}
    (hk : ws[k]? = some w) (hw : ReadsRegister w idx) :
    (s.feed (ws.take (k + 1))).rdata = (s.feed (ws.take k)).readReg idx := by
  rw [List.take_add_one, hk, Option.toList_some, feed_concat]
  exact stepWith_rdata_of_reads _ hw

/-! ## The consistent drain (70_reset_and_hazards.md R228) -/

theorem decodeHost_read (idx : RegIdx) : decodeHost (hostWord 0b01 idx 0) = .regRead idx := by
  simp only [decodeHost, hostWord_op, hostWord_idx]
  rfl

theorem reads_of_hostWord (c : PortBits) (idx : RegIdx) : ReadsRegister ⟨0, c, hostWord 0b01 idx 0⟩ idx :=
  ⟨rfl, decodeHost_read idx⟩

theorem readReg_char_toNat (s : State) (n : Fin 11) : (s.readReg (idxTcChar n)).toNat = (s.outStr[n]).toNat := by
  rw [readReg_of_char s (idxTcChar_toNat n), BitVec.toNat_ofNat]
  exact Nat.mod_eq_of_lt (by omega)

theorem readReg_status_bits (s : State) :
    (s.readReg 0x04).getLsbD 0 = s.frameReady ∧ (s.readReg 0x04).getLsbD 1 = s.outDf := by
  change s.statusWord.getLsbD 0 = _ ∧ s.statusWord.getLsbD 1 = _
  unfold State.statusWord
  cases s.frameReady <;> cases s.outDf <;> decide

/-- The host words that read the eleven characters. -/
def charReadWords : List PortBits := (List.finRange 11).map fun n => hostWord 0b01 (idxTcChar n) 0

/-- The host words of a consistent drain: consume, the characters, STATUS. -/
def drainHosts : List PortBits := hostWord 0b10 0x04 1 :: charReadWords ++ [hostWord 0b01 0x04 0]

/-- The words of a run without reset, from what each port carries. -/
def portsOf (caps hosts : List PortBits) : List StepWords :=
  List.zipWith (fun c h => (⟨0, c, h⟩ : StepWords)) caps hosts

theorem portsOf_getElem? {caps hosts : List PortBits} {k : Nat} {h : PortBits} (hk : k < caps.length)
    (hh : hosts[k]? = some h) : (portsOf caps hosts)[k]? = some ⟨0, caps[k], h⟩ := by
  simp [portsOf, List.getElem?_zipWith, hh, hk]

theorem reads_of_mem_portsOf_charReads {caps : List PortBits} {w : StepWords} (hw : w ∈ portsOf caps charReadWords) :
    ∃ idx, ReadsRegister w idx := by
  rw [portsOf, ← List.map_uncurry_zip_eq_zipWith] at hw
  obtain ⟨⟨c, h⟩, hzip, rfl⟩ := List.mem_map.mp hw
  obtain ⟨n, -, rfl⟩ := List.mem_map.mp (List.of_mem_zip hzip).2
  exact ⟨idxTcChar n, reads_of_hostWord c (idxTcChar n)⟩

/-- The drain without its last read is the consume and the reads of the characters. -/
theorem portsOf_drainHosts_take (c : PortBits) (cs : List PortBits) :
    (portsOf (c :: cs) drainHosts).take 12 =
      ⟨0, c, hostWord 0b10 0x04 1⟩ :: portsOf (cs.take 11) charReadWords := by
  rw [portsOf, List.take_zipWith]
  rfl

theorem drainHosts_char (n : Fin 11) : drainHosts[n.val + 1]? = some (hostWord 0b01 (idxTcChar n) 0) := by
  revert n; decide

theorem drainHosts_status : drainHosts[12]? = some (hostWord 0b01 0x04 0) := rfl

/-- Settles O47: the last read shows `frame_ready` as the eleven reads before it left it, so none of the twelve
steps before it published, and each of the reads found the frame of the start. -/
theorem consistentDrainReadsOneFrame : Obligations.ConsistentDrainReadsOneFrame := by
  intro s caps hcaps
  change (s.feed (portsOf caps drainHosts)).rdata.getLsbD 0 = false →
    (∀ n : Fin 11, (s.feed ((portsOf caps drainHosts).take (n.val + 2))).rdata.toNat = (s.outStr[n]).toNat) ∧
    (s.feed (portsOf caps drainHosts)).rdata.getLsbD 1 = s.outDf
  set ws := portsOf caps drainHosts with hws
  have hstatus : (s.feed ws).rdata = (s.feed (ws.take 12)).readReg 0x04 := by
    have hlen : ws.length ≤ 13 := by simp [hws, portsOf, hcaps]
    rw [← feed_take_succ_rdata (portsOf_getElem? (by omega) drainHosts_status) (reads_of_hostWord _ _),
      List.take_of_length_le hlen]
  obtain ⟨hready, hflag⟩ := readReg_status_bits (s.feed (ws.take 12))
  rw [hstatus, hready, hflag]
  intro hnot
  have hlatch : ∀ k ≤ 12, (s.feed (ws.take k)).outStr = s.outStr ∧ (s.feed (ws.take k)).outDf = s.outDf := by
    intro k hk
    obtain ⟨c, cs, rfl⟩ := List.exists_cons_of_length_eq_add_one hcaps
    have hkeep := feed_take_keeps_latch rfl (fun _ => reads_of_mem_portsOf_charReads)
      (portsOf_drainHosts_take c cs ▸ hnot) k
    rwa [← portsOf_drainHosts_take, List.take_take, Nat.min_eq_left hk] at hkeep
  refine ⟨fun n => ?_, (hlatch 12 le_rfl).2⟩
  rw [feed_take_succ_rdata (portsOf_getElem? (by omega) (drainHosts_char n)) (reads_of_hostWord _ _),
    readReg_char_toNat, (hlatch (n.val + 1) (by omega)).1]

end Sys2Proof.Machine
end

section
/-! PROOFS. The words of the operations and the steps they make: the two round trips of the encoding, the bits a word does not use, and what a step is made of. -/

namespace Sys2Proof.Machine

/-! ## The encoder and the decoder (30_encoding.md R70 to R77) -/

theorem decodeHost_write (idx : RegIdx) (v : RegWord) : decodeHost (hostWord 0b10 idx v) = .regWrite idx v := by
  simp only [decodeHost, hostWord_op, hostWord_idx, hostWord_v]
  rfl

theorem decode_encode (i : Instr) : decode (encode i) = .ok i := by
  cases i with
  | interval n => exact congrArg Except.ok (decodeCap_capWord n)
  | pushBit b => cases b <;> rfl
  | regRead idx => exact congrArg Except.ok (decodeHost_read idx)
  | regWrite idx v => exact congrArg Except.ok (decodeHost_write idx v)
  | capIdle | hostIdle | hostRsvd | reset => rfl

/-- Settles O7: the decoder reads back every field the encoder writes. -/
theorem decodingInvertsEncoding : Obligations.DecodingInvertsEncoding := decode_encode

theorem encode_of_port_cap {i : Instr} (h : i.port = .cap) : encode i = .cap (capBitsOf i) := by
  cases i with
  | capIdle | interval => rfl
  | pushBit | hostIdle | regRead | regWrite | hostRsvd | reset => cases h

theorem encode_of_port_host {i : Instr} (h : i.port = .host) : encode i = .host (hostBitsOf i) := by
  cases i with
  | hostIdle | regRead | regWrite | hostRsvd => rfl
  | capIdle | interval | pushBit | reset => cases h

theorem decodeCap_capBitsOf {i : Instr} (h : i.port = .cap) : decodeCap (capBitsOf i) = i :=
  Except.ok.inj (encode_of_port_cap h ▸ decode_encode i)

theorem decodeHost_hostBitsOf {i : Instr} (h : i.port = .host) : decodeHost (hostBitsOf i) = i :=
  Except.ok.inj (encode_of_port_host h ▸ decode_encode i)

theorem decodeStep_encodeStep_ports {cap host : Instr} (hc : cap.port = .cap) (hh : host.port = .host) :
    decodeStep (encodeStep (.ports cap host)) = .ports cap host :=
  (decodeStep_of_rst_zero rfl).trans (congrArg₂ StepOps.ports (decodeCap_capBitsOf hc) (decodeHost_hostBitsOf hh))

/-- Settles O8: RST = 1 hides the ports; otherwise each port's word carries that port's operation back. -/
theorem stepDecodingInvertsEncoding : Obligations.StepDecodingInvertsEncoding := by
  intro p hwf
  cases p with
  | reset => rfl
  | ports cap host =>
    obtain ⟨hc, hh⟩ := (Bool.and_eq_true _ _).mp hwf
    exact decodeStep_encodeStep_ports (eq_of_beq hc) (eq_of_beq hh)

/-! ## The bits a word does not use (30_encoding.md R77) -/

/-- The fields of a capture word, put together again, are the word without its reserved bits. -/
theorem capWord_fields (w : PortBits) :
    capWord (w.extractLsb' 31 1) (w.extractLsb' 0 16) = w &&& 0x8000FFFF := by
  apply BitVec.eq_of_getLsbD_eq
  intro i hi
  interval_cases i <;> simp [capWord]

/-- The same for a host word. -/
theorem hostWord_fields (w : PortBits) :
    hostWord (w.extractLsb' 30 2) (w.extractLsb' 16 8) (w.extractLsb' 0 16) = w &&& 0xC0FFFFFF := by
  apply BitVec.eq_of_getLsbD_eq
  intro i hi
  interval_cases i <;> simp [hostWord]

theorem hostWord_clear_v (op : BitVec 2) (idx : RegIdx) (v : RegWord) :
    hostWord op idx v &&& 0xC0FF0000 = hostWord op idx 0 := by
  apply BitVec.eq_of_getLsbD_eq
  intro i hi
  interval_cases i <;> simp [hostWord]

theorem hostWord_clear_operands (op : BitVec 2) (idx : RegIdx) (v : RegWord) :
    hostWord op idx v &&& 0xC0000000 = hostWord op 0 0 := by
  apply BitVec.eq_of_getLsbD_eq
  intro i hi
  interval_cases i <;> simp [hostWord]

theorem hostWord_of_op_and_idx (w : PortBits) :
    hostWord (w.extractLsb' 30 2) (w.extractLsb' 16 8) 0 = w &&& 0xC0FF0000 := by
  have hmask : (0xC0FFFFFF : PortBits) &&& 0xC0FF0000 = 0xC0FF0000 := by decide
  rw [← hostWord_clear_v _ _ (w.extractLsb' 0 16), hostWord_fields, BitVec.and_assoc, hmask]

theorem hostWord_of_op (w : PortBits) : hostWord (w.extractLsb' 30 2) 0 0 = w &&& 0xC0000000 := by
  have hmask : (0xC0FFFFFF : PortBits) &&& 0xC0000000 = 0xC0000000 := by decide
  rw [← hostWord_clear_operands _ (w.extractLsb' 16 8) (w.extractLsb' 0 16), hostWord_fields, BitVec.and_assoc, hmask]

/-- VALID is bit 31 of a capture word. -/
theorem validField_eq_one_iff (w : PortBits) : w.extractLsb' 31 1 = 1#1 ↔ w.getLsbD 31 = true := by
  have h31 : w.toNat / 2 ^ 31 % 2 = w.toNat / 2 ^ 31 := Nat.mod_eq_of_lt (by omega)
  rw [getLsbD_eq_true_iff_div_mod, h31]
  exact extractLsb'_top_eq_iff w rfl (by decide)

theorem decodeCap_of_valid {w : PortBits} (h : w.getLsbD 31 = true) :
    decodeCap w = .interval (w.extractLsb' 0 16) :=
  if_pos ((validField_eq_one_iff w).mpr h)

theorem decodeCap_of_not_valid {w : PortBits} (h : ¬ w.getLsbD 31 = true) : decodeCap w = .capIdle :=
  if_neg fun hv => h ((validField_eq_one_iff w).mp hv)

theorem encode_decodeCap (w : PortBits) :
    encode (decodeCap w) = .cap (if w.getLsbD 31 then w &&& 0x8000FFFF else 0) := by
  by_cases h : w.getLsbD 31 = true
  · have hfields := capWord_fields w
    rw [(validField_eq_one_iff w).mpr h] at hfields
    rw [decodeCap_of_valid h, if_pos h, ← hfields]
    rfl
  · rw [decodeCap_of_not_valid h, if_neg h]
    rfl

/-- A host word by the four values of OP. -/
theorem hostOp_value_cases (w : PortBits) :
    w.toNat / 2 ^ 30 = 0 ∨ w.toNat / 2 ^ 30 = 1 ∨ w.toNat / 2 ^ 30 = 2 ∨ w.toNat / 2 ^ 30 = 3 := by
  have := w.isLt
  omega

theorem encode_decodeHost (w : PortBits) : encode (decodeHost w) = .host
    (if w.toNat / 2 ^ 30 = 1 then w &&& 0xC0FF0000
     else if w.toNat / 2 ^ 30 = 2 then w &&& 0xC0FFFFFF
     else w &&& 0xC0000000) := by
  obtain h | h | h | h := hostOp_value_cases w
  · have hop := hostOp_eq_of_value (by decide) h
    rw [decodeHost_of_op_idle h, h, ← hostWord_of_op, hop]; rfl
  · have hop := hostOp_eq_of_value (by decide) h
    rw [decodeHost_of_op_read h, h, ← hostWord_of_op_and_idx, hop]; rfl
  · have hop := hostOp_eq_of_value (by decide) h
    rw [decodeHost_of_op_write h, h, ← hostWord_fields, hop]; rfl
  · have hop := hostOp_eq_of_value (by decide) h
    rw [decodeHost_of_op_rsvd h, h, ← hostWord_of_op, hop]; rfl

/-- Settles O9, port by port. -/
theorem encodingClearsTheIgnoredBits : Obligations.EncodingClearsTheIgnoredBits :=
  ⟨encode_decodeCap, encode_decodeHost⟩

/-- Settles O11: the operation is read from the fields by their values alone. -/
theorem ignoredBitsDoNotMatter : Obligations.IgnoredBitsDoNotMatter := by
  refine ⟨fun w w' hvalid hn => ?cap, fun w w' hop hidx hv => ?host⟩
  case cap =>
    rw [decodeCap_eq_of_fields, decodeCap_eq_of_fields, ← hvalid]
    split_ifs with hidle
    · rfl
    · rw [hn (by omega)]
  case host =>
    obtain h | h | h | h := hostOp_value_cases w
    · rw [decodeHost_of_op_idle h, decodeHost_of_op_idle (hop ▸ h)]
    · rw [decodeHost_of_op_read h, decodeHost_of_op_read (hop ▸ h), extractLsb'_eq_ofNat_field,
        extractLsb'_eq_ofNat_field, hidx (.inl h)]
    · rw [decodeHost_of_op_write h, decodeHost_of_op_write (hop ▸ h), extractLsb'_zero_eq_ofNat_mod,
        extractLsb'_zero_eq_ofNat_mod, extractLsb'_eq_ofNat_field, extractLsb'_eq_ofNat_field, hidx (.inr h), hv h]
    · rw [decodeHost_of_op_rsvd h, decodeHost_of_op_rsvd (hop ▸ h)]

/-- Settles O12, word by word. -/
theorem writtenOutWordsDecode : Obligations.WrittenOutWordsDecode :=
  ⟨rfl, rfl, rfl, rfl, rfl, rfl, rfl, rfl⟩

/-! ## Nothing stops (60_exceptions.md R200) -/

/-- Settles O5. -/
theorem nothingStopsTheBlock : Obligations.NothingStopsTheBlock :=
  ⟨fun i s => ⟨_, exec_eq_next i s⟩, fun s => ⟨_, step_eq_next s⟩⟩

theorem after_succ (k : Nat) (s : State) : s.after (k + 1) = (stepNext s).after k := by
  rw [State.after, step_eq_next]

/-- A run of any machine goes on from the state its first step answers. -/
theorem run_succ_of_next {M : Host.Core} {s t : M.State} (h : M.step s = .next t) (k : Nat) :
    M.run (k + 1) s = M.run k t := by
  rw [Host.Core.run, h]

/-- Settles O6, by induction on the number of steps. -/
theorem runsReachTheStateAfter : Obligations.RunsReachTheStateAfter := by
  intro k
  induction k with
  | zero => exact fun s => rfl
  | succ k ih =>
    intro s
    rw [after_succ, ← ih]
    exact run_succ_of_next (M := core) (step_eq_next s) k

/-- Settles O3. -/
theorem startStateIsBounded : Obligations.StartStateIsBounded :=
  ⟨execNext_reset_hasResetValues State.reset, reset_bounded⟩

/-! ## What a step is made of (43_host_interface.md R176) -/

/-- Settles O13: the two sides run from the step's start, and each field is taken from its side. -/
theorem stepRunsTheDecodedOperations : Obligations.StepRunsTheDecodedOperations := by
  intro s s0
  refine ⟨fun hnil => ?idle, fun w ws hcons => ?words, fun h => ?reset, fun cap host h => ?ports⟩
  case idle => rw [State.nextWords, hnil]; rfl
  case words => rw [State.nextWords, hcons]
  case reset =>
    rw [step_eq_next, stepNext_of_reset h]
    exact (exec_eq_next .reset s0).symm
  case ports =>
    refine ⟨_, _, _, exec_eq_next cap _, exec_eq_next host s0, step_eq_next s, ?_⟩
    rw [stepNext_of_ports h]
    rfl

/-- A capture operation beside an idle host port: the join adds back the flag the operation was not shown. -/
theorem joinSides_of_host_idle {cap : Instr} (h : cap.port = .cap) (u : State) :
    State.joinSides (execNext cap (u.setFrameReady false)) (execNext .hostIdle u) = (execNext cap u).setRdata 0 := by
  cases cap with
  | capIdle => apply State.ext <;> simp [execNext]
  | interval n =>
    obtain ⟨hmin, hmax, zmin, zmax⟩ := interval_host_fields (u.setFrameReady false) n
    simp only [execNext]
    rw [← interval_clear_join u n]
    apply State.ext <;> simp [hmin, hmax, zmin, zmax]
  | pushBit | hostIdle | regRead | regWrite | hostRsvd | reset => cases h

/-- A host operation beside an idle capture port: the host side leaves the core's fields. -/
theorem joinSides_of_cap_idle {host : Instr} (h : host.port = .host) (u : State) :
    State.joinSides (execNext .capIdle (u.setFrameReady false)) (execNext host u) =
      (execNext host u).setCapRestart false := by
  cases host with
  | regWrite idx v =>
    obtain ⟨-, e⟩ | ⟨-, e⟩ | ⟨-, e⟩ | ⟨-, e⟩ | ⟨-, e⟩ := writeReg_cases u idx v <;> simp only [execNext, e]
    all_goals apply State.ext <;> simp
  | hostIdle | regRead | hostRsvd => apply State.ext <;> simp [execNext]
  | capIdle | interval | pushBit | reset => cases h

/-- A step whose ports present these two operations. -/
theorem stepNext_of_inputs {s : State} {cap host : Instr} {ws : List StepWords} (hc : cap.port = .cap)
    (hh : host.port = .host) (h : s.inputs = encodeStep (.ports cap host) :: ws) :
    stepNext s = State.joinSides (execNext cap (({ s with inputs := ws, events := [] } : State).setFrameReady false))
      (execNext host { s with inputs := ws, events := [] }) := by
  have hwords : s.nextWords = encodeStep (.ports cap host) := by rw [State.nextWords, h]
  have hbegin : s.beginStep = { s with inputs := ws, events := [] } := by
    rw [State.beginStep, h]; rfl
  rw [stepNext_of_ports (hwords ▸ decodeStep_encodeStep_ports hc hh), hbegin]

/-- Settles O14: the idle side adds its own output and nothing else. -/
theorem stepOfOneOperationIsItsExec : Obligations.StepOfOneOperationIsItsExec := by
  intro s ws i
  refine ⟨fun hport hin => ⟨_, exec_eq_next i _, ?cap⟩, fun hport hin => ⟨_, exec_eq_next i _, ?host⟩⟩
  case cap =>
    rw [step_eq_next, stepNext_of_inputs hport rfl hin, joinSides_of_host_idle hport]
    rfl
  case host =>
    rw [step_eq_next, stepNext_of_inputs rfl hport hin, joinSides_of_cap_idle hport]
    rfl

/-- A step without reset joins its two sides, each run from the state the step found. -/
theorem stepWith_of_rst_zero (s : State) {w : StepWords} (hw : w.rst = 0) :
    s.stepWith w = State.joinSides
      (execNext (decodeCap w.cap) (((s.setInputs []).setEvents []).setFrameReady false))
      (execNext (decodeHost w.host) ((s.setInputs []).setEvents [])) := by
  rw [State.stepWith, decodeStep_of_rst_zero hw, joinedNext]

theorem step_setInputs_cons (s : State) (w : StepWords) (ws : List StepWords) :
    step (s.setInputs (w :: ws)) = .next ((s.stepWith w).setInputs ws) := by
  rw [step_eq_next, stepNext_cons]

/-- Settles O16: both steps start alike, and every field comes from one side. -/
theorem sidesOfAStepAreIndependent : Obligations.SidesOfAStepAreIndependent := by
  intro s w w' ws hw hw'
  refine ⟨_, _, step_setInputs_cons s w ws, step_setInputs_cons s w' ws, fun hcap => ?cap, fun hhost => ?host⟩
  case cap =>
    rw [stepWith_of_rst_zero s hw, stepWith_of_rst_zero s hw', hcap]
    exact ⟨rfl, rfl, rfl, rfl, rfl, rfl, rfl, rfl, rfl, rfl⟩
  case host =>
    rw [stepWith_of_rst_zero s hw, stepWith_of_rst_zero s hw', hhost]
    exact ⟨rfl, rfl, rfl, rfl, rfl⟩

end Sys2Proof.Machine
end

section
/-! PROOFS. The record of a step, what INTERVAL and PUSH_BIT leave unchanged, the buffer after 64 bits, and the thresholds read back. -/

namespace Sys2Proof.Machine

/-! ## What an operation records (60_exceptions.md R201, R208) -/

/-- What PUSH_BIT records (41_frame_assembler.md R122, R125). -/
def State.bitEvents (s : State) (b : Bool) : List Event :=
  if b = true ∧ s.ones.toNat = 11 then [.sync]
  else if s.pos.toNat = 79 then [if s.syncSeen then .publish else .fault .frameBoundaryMismatch]
  else []

/-- What INTERVAL records (40_demodulator.md R101). -/
def State.intervalEvents (s : State) (n : Tick) : List Event :=
  match s.classify n, s.pending with
  | .half, false => []
  | .half, true => s.bitEvents true
  | .full, false => s.bitEvents false
  | .full, true => [.fault .alignmentFault]
  | .invalid, _ => [.fault .signalTimingFault]

/-- What an operation records. -/
def State.recorded (s : State) : Instr → List Event
  | .interval n => s.intervalEvents n
  | .pushBit b => s.bitEvents b
  | _ => []

theorem pushBit_events (s : State) (b : Bool) : (s.pushBit b).events = s.events ++ s.bitEvents b := by
  have hcases := pushBit_cases s b
  simp only [detects_iff, ne_eq, pos_succ_eq_frameBits_iff] at hcases
  obtain ⟨hd, e⟩ | ⟨hd, hp, e⟩ | ⟨hd, hp, hs, e⟩ | ⟨hd, hp, hs, e⟩ := hcases <;> rw [e, State.bitEvents]
  · rw [if_pos hd]
  · rw [if_neg hd, if_neg hp, List.append_nil]
  · rw [if_neg hd, if_pos hp, if_pos hs]
  · rw [if_neg hd, if_pos hp, hs]; rfl

theorem interval_events (s : State) (n : Tick) : (s.interval n).events = s.events ++ s.intervalEvents n := by
  unfold State.intervalEvents
  obtain ⟨hc, hp, e⟩ | ⟨hc, hp, e⟩ | ⟨hc, hp, e⟩ | ⟨hc, hp, e⟩ | ⟨hc, e⟩ := interval_cases s n <;> rw [e, hc]
  · rw [hp]; exact (List.append_nil _).symm
  · rw [hp]; exact pushBit_events _ true
  · rw [hp]; exact pushBit_events _ false
  · rw [hp]

@[simp] theorem writeReg_events (s : State) (idx : RegIdx) (v : RegWord) : (s.writeReg idx v).events = s.events := by
  obtain ⟨-, e⟩ | ⟨-, e⟩ | ⟨-, e⟩ | ⟨-, e⟩ | ⟨-, e⟩ := writeReg_cases s idx v <;> rw [e]

/-- RESET empties the record; every other operation adds to it. -/
theorem execNext_events {i : Instr} (h : i ≠ .reset) (s : State) :
    (execNext i s).events = s.events ++ s.recorded i := by
  cases i with
  | interval n => exact interval_events s n
  | pushBit b => exact pushBit_events s b
  | reset => exact absurd rfl h
  | capIdle | hostIdle | regRead | regWrite | hostRsvd => simp [execNext, State.recorded]

theorem bitEvents_length_le (s : State) (b : Bool) : (s.bitEvents b).length ≤ 1 := by
  unfold State.bitEvents
  split_ifs <;> simp

theorem intervalEvents_length_le (s : State) (n : Tick) : (s.intervalEvents n).length ≤ 1 := by
  unfold State.intervalEvents
  split
  case h_1 => exact Nat.zero_le 1
  case h_2 | h_3 => exact bitEvents_length_le s _
  case h_4 | h_5 => exact le_rfl

theorem recorded_length_le (s : State) (i : Instr) : (s.recorded i).length ≤ 1 := by
  cases i with
  | interval n => exact intervalEvents_length_le s n
  | pushBit b => exact bitEvents_length_le s b
  | capIdle | hostIdle | regRead | regWrite | hostRsvd | reset => exact Nat.zero_le 1

theorem stepNext_events_of_reset {s : State} (h : decodeStep s.nextWords = .reset) : (stepNext s).events = [] := by
  rw [stepNext_of_reset h]; rfl

/-- A step records what its capture operation does. -/
theorem stepNext_events_of_ports {s : State} {cap host : Instr} (h : decodeStep s.nextWords = .ports cap host) :
    (stepNext s).events = s.recorded cap := by
  have hreset : cap ≠ .reset := by
    obtain rfl | ⟨n, rfl⟩ := cap_of_decodeStep_ports h <;> exact Instr.noConfusion
  rw [stepNext_of_ports h]
  have hrec : (s.beginStep.setFrameReady false).recorded cap = s.recorded cap := by cases cap <;> rfl
  exact (execNext_events hreset _).trans hrec

/-- Settles O20: one operation records at most one event, and in a step only the capture side records. -/
theorem eventsOfOneOperationExclude : Obligations.EventsOfOneOperationExclude := by
  refine ⟨fun i s t hs h => ?operation, fun s t h => ?step⟩
  case operation =>
    rw [(exec_next_iff i s t).mp h]
    by_cases hreset : i = .reset
    · subst hreset; exact Nat.zero_le 1
    · rw [execNext_events hreset, hs]; exact recorded_length_le s i
  case step =>
    rw [(step_next_iff s t).mp h]
    cases hw : decodeStep s.nextWords with
    | reset => rw [stepNext_events_of_reset hw]; exact Nat.zero_le 1
    | ports cap host => rw [stepNext_events_of_ports hw]; exact recorded_length_le s cap

/-! ## The table of the faults (60_exceptions.md R201) -/

theorem timingFault_mem_intervalEvents (s : State) (n : Tick) :
    Event.fault .signalTimingFault ∈ s.intervalEvents n ↔ s.classify n = .invalid := by
  have hbit (b : Bool) : Event.fault .signalTimingFault ∉ s.bitEvents b := by
    unfold State.bitEvents; split_ifs <;> simp
  unfold State.intervalEvents
  split <;> simp_all

theorem alignmentFault_mem_intervalEvents (s : State) (n : Tick) :
    Event.fault .alignmentFault ∈ s.intervalEvents n ↔ s.classify n = .full ∧ s.pending = true := by
  have hbit (b : Bool) : Event.fault .alignmentFault ∉ s.bitEvents b := by
    unfold State.bitEvents; split_ifs <;> simp
  unfold State.intervalEvents
  split <;> simp_all

/-- The events of the frame assembler fall where a bit is emitted and the assembler records them for it. -/
theorem mem_intervalEvents_iff_emitted {e : Event} (h1 : e ≠ .fault .signalTimingFault)
    (h2 : e ≠ .fault .alignmentFault) (s : State) (n : Tick) :
    e ∈ s.intervalEvents n ↔ ∃ b, s.emitted (.interval n) = some b ∧ e ∈ s.bitEvents b := by
  unfold State.intervalEvents State.emitted
  split <;> simp_all

theorem sync_mem_bitEvents (s : State) (b : Bool) : Event.sync ∈ s.bitEvents b ↔ b = true ∧ s.ones.toNat = 11 := by
  unfold State.bitEvents; split_ifs <;> simp_all

theorem publish_mem_bitEvents (s : State) (b : Bool) : Event.publish ∈ s.bitEvents b ↔
    ¬ (b = true ∧ s.ones.toNat = 11) ∧ s.pos.toNat = 79 ∧ s.syncSeen = true := by
  unfold State.bitEvents; split_ifs <;> simp_all

theorem mismatch_mem_bitEvents (s : State) (b : Bool) : Event.fault .frameBoundaryMismatch ∈ s.bitEvents b ↔
    ¬ (b = true ∧ s.ones.toNat = 11) ∧ s.pos.toNat = 79 ∧ s.syncSeen = false := by
  unfold State.bitEvents; split_ifs <;> simp_all

theorem sync_mem_intervalEvents (s : State) (n : Tick) :
    Event.sync ∈ s.intervalEvents n ↔ s.DetectsSync (.interval n) := by
  rw [mem_intervalEvents_iff_emitted (by decide) (by decide)]
  simp only [sync_mem_bitEvents, State.DetectsSync]
  exact ⟨fun ⟨b, he, hb, ho⟩ => ⟨hb ▸ he, ho⟩, fun ⟨he, ho⟩ => ⟨true, he, rfl, ho⟩⟩

theorem completes_iff (s : State) (n : Tick) : s.Completes (.interval n) ↔
    ∃ b, s.emitted (.interval n) = some b ∧ ¬ (b = true ∧ s.ones.toNat = 11) ∧ s.pos.toNat = 79 := by
  unfold State.Completes State.DetectsSync
  cases s.emitted (.interval n) <;> simp

theorem publish_mem_intervalEvents (s : State) (n : Tick) :
    Event.publish ∈ s.intervalEvents n ↔ s.Publishes (.interval n) := by
  rw [mem_intervalEvents_iff_emitted (by decide) (by decide), State.Publishes, completes_iff]
  simp only [publish_mem_bitEvents]
  exact ⟨fun ⟨b, he, hd, hp, hs⟩ => ⟨⟨b, he, hd, hp⟩, hs⟩, fun ⟨⟨b, he, hd, hp⟩, hs⟩ => ⟨b, he, hd, hp, hs⟩⟩

theorem mismatch_mem_intervalEvents (s : State) (n : Tick) :
    Event.fault .frameBoundaryMismatch ∈ s.intervalEvents n ↔ s.Completes (.interval n) ∧ s.syncSeen = false := by
  rw [mem_intervalEvents_iff_emitted (by decide) (by decide), completes_iff]
  simp only [mismatch_mem_bitEvents]
  exact ⟨fun ⟨b, he, hd, hp, hs⟩ => ⟨⟨b, he, hd, hp⟩, hs⟩, fun ⟨⟨b, he, hd, hp⟩, hs⟩ => ⟨b, he, hd, hp, hs⟩⟩

/-- Settles O21: a step records what its capture operation does, and only an INTERVAL records anything. -/
theorem eventsRecordWhatHappened : Obligations.EventsRecordWhatHappened := by
  intro s
  refine ⟨stepNext s, step_eq_next s, stepNext_events_of_reset, fun cap host h => ?_⟩
  rw [stepNext_events_of_ports h]
  obtain rfl | ⟨n, rfl⟩ := cap_of_decodeStep_ports h
  · simp [State.recorded, State.Publishes, State.Completes, State.DetectsSync, State.emitted]
  · refine ⟨?_, ?_, mismatch_mem_intervalEvents s n, sync_mem_intervalEvents s n, publish_mem_intervalEvents s n⟩
    · exact (timingFault_mem_intervalEvents s n).trans (by simp)
    · exact (alignmentFault_mem_intervalEvents s n).trans (by simp)

/-! ## What INTERVAL and PUSH_BIT leave unchanged -/

theorem pushBit_keeps_thresholds (s : State) (b : Bool) :
    (s.pushBit b).oneMin = s.oneMin ∧ (s.pushBit b).oneMax = s.oneMax ∧
    (s.pushBit b).zeroMin = s.zeroMin ∧ (s.pushBit b).zeroMax = s.zeroMax := by
  obtain ⟨-, e⟩ | ⟨-, -, e⟩ | ⟨-, -, -, e⟩ | ⟨-, -, -, e⟩ := pushBit_cases s b <;> rw [e] <;>
    exact ⟨rfl, rfl, rfl, rfl⟩

/-- INTERVAL leaves RDATA and the words to come. -/
theorem interval_keeps_rdata_inputs (s : State) (n : Tick) :
    (s.interval n).rdata = s.rdata ∧ (s.interval n).inputs = s.inputs := by
  cases h : s.emitted (.interval n) with
  | none => obtain ⟨_, _, _, -, e⟩ := interval_of_emits_none h; rw [e]; exact ⟨rfl, rfl⟩
  | some b =>
    rw [interval_of_emits h]
    obtain ⟨-, -, -, hrdata, hinputs, -⟩ := pushBit_keeps
      { s with edgeSel := !s.edgeSel, capRestart := true, pending := false } b
    exact ⟨hrdata, hinputs⟩

/-- Settles O25: what INTERVAL records tells whether it published, and without a publish no register changes. -/
theorem intervalFrame : Obligations.IntervalFrame := by
  intro n s t h
  obtain rfl : t = s.interval n := (exec_next_iff (.interval n) s t).mp h
  obtain ⟨hmin, hmax, zmin, zmax⟩ := interval_host_fields s n
  obtain ⟨hrdata, hinputs⟩ := interval_keeps_rdata_inputs s n
  refine ⟨hmin, hmax, zmin, zmax, hrdata, hinputs, interval_edgeSel s n, interval_capRestart s n,
    s.intervalEvents n, interval_events s n, intervalEvents_length_le s n, fun hpub => ?_⟩
  rw [publish_mem_intervalEvents] at hpub
  obtain ⟨hstr, hdf⟩ := interval_keeps_latch hpub
  have hready : (s.interval n).frameReady = s.frameReady := by
    rw [Bool.eq_iff_iff, interval_frameReady_iff]
    exact or_iff_right hpub
  exact ⟨hstr, hdf, hready, readReg_eq_of_registers hmin hmax zmin zmax hready hdf hstr⟩

/-- Settles O29. -/
theorem pushBitFrame : Obligations.PushBitFrame := by
  intro b s t h
  obtain rfl : t = s.pushBit b := (exec_next_iff (.pushBit b) s t).mp h
  obtain ⟨hmin, hmax, zmin, zmax⟩ := pushBit_keeps_thresholds s b
  obtain ⟨hpending, hedge, hrestart, hrdata, hinputs, -⟩ := pushBit_keeps s b
  refine ⟨hmin, hmax, zmin, zmax, hedge, hpending, hrestart, hrdata, hinputs, fun hpub => ?_⟩
  obtain ⟨hstr, hdf⟩ := pushBit_keeps_latch (b := b) fun ⟨_, hp, hs⟩ => hpub ⟨hp, hs⟩
  refine ⟨hstr, hdf, ?_⟩
  rw [Bool.eq_iff_iff, pushBit_frameReady_iff, pos_succ_eq_frameBits_iff]
  exact or_iff_right fun ⟨_, hp, hs⟩ => hpub ⟨hp, hs⟩

/-! ## The buffer after many bits (41_frame_assembler.md R126, 20_memory.md R50) -/

theorem shiftAll_append (b : FrameBuf) (cs ds : List Bool) : shiftAll b (cs ++ ds) = shiftAll (shiftAll b cs) ds := by
  induction cs generalizing b with
  | nil => rfl
  | cons c cs ih => exact ih (shiftBuf c b)

/-- At most 64 bits shifted in stand at the top in their order, and the old bits move down below them. -/
theorem bufValue_shiftAll_getLsbD (b : FrameBuf) (cs : List Bool) (hcs : cs.length ≤ 64) (i : Nat) (hi : i < 64) :
    (bufValue (shiftAll b cs)).getLsbD i =
      if i + cs.length < 64 then (bufValue b).getLsbD (i + cs.length) else cs.getD (i + cs.length - 64) false := by
  induction cs generalizing b with
  | nil => rw [List.length_nil, Nat.add_zero, if_pos hi]; rfl
  | cons c cs ih =>
    rw [List.length_cons] at hcs ⊢
    rw [shiftAll, ih (shiftBuf c b) (by omega)]
    obtain hlt | heq | hgt := Nat.lt_trichotomy (i + cs.length) 63
    · rw [if_pos (by omega), if_pos (by omega), bufValue_shiftBuf_getLsbD _ _ _ (by omega), if_neg (by omega)]
      rfl
    · have hfirst : i + (cs.length + 1) - 64 = 0 := by omega
      rw [if_pos (by omega), if_neg (by omega), bufValue_shiftBuf_getLsbD _ _ _ (by omega), if_pos heq, hfirst]
      rfl
    · have hnext : i + (cs.length + 1) - 64 = (i + cs.length - 64) + 1 := by omega
      rw [if_neg (by omega), if_neg (by omega), hnext, List.getD_cons_succ]

theorem bufValue_shiftAll_of_length_64 (b : FrameBuf) {ds : List Bool} (h : ds.length = 64) (i : Nat) (hi : i < 64) :
    (bufValue (shiftAll b ds)).getLsbD i = ds[i] := by
  have hidx : i + ds.length - 64 = i := by omega
  rw [bufValue_shiftAll_getLsbD b ds h.le i hi, if_neg (by omega), hidx, List.getD_eq_getElem]

/-- Settles O32: the bits before the last 64 only change the buffer those are shifted into. -/
theorem bufferHoldsTheLastSixtyFourBits : Obligations.BufferHoldsTheLastSixtyFourBits := by
  intro b cs ds h i
  have hbit := bufValue_shiftAll_of_length_64 (shiftAll b cs) h i.val i.isLt
  rw [shiftAll_append]
  exact ⟨hbit, (bufValue_getLsbD _ i.val i.isLt).symm.trans hbit⟩

/-! ## A threshold read back (10_state.md R43) -/

/-- The registers 0 to 3 are the thresholds, which take the whole value written. -/
theorem readReg_writeReg_threshold (s : State) {idx : RegIdx} (v : RegWord) (h : idx.toNat ≤ 3) :
    (s.writeReg idx v).readReg idx = v := by
  obtain ⟨rfl, e⟩ | ⟨rfl, e⟩ | ⟨rfl, e⟩ | ⟨rfl, e⟩ | ⟨hge, -⟩ := writeReg_cases s idx v
  case inr.inr.inr.inr => omega
  all_goals rw [e]; rfl

/-- A threshold shows the state's thresholds and nothing else. -/
theorem readReg_threshold_eq {s t : State} {idx : RegIdx} (h : idx.toNat ≤ 3) (h1 : s.oneMin = t.oneMin)
    (h2 : s.oneMax = t.oneMax) (h3 : s.zeroMin = t.zeroMin) (h4 : s.zeroMax = t.zeroMax) :
    s.readReg idx = t.readReg idx := by
  have hidx : idx = 0x00 ∨ idx = 0x01 ∨ idx = 0x02 ∨ idx = 0x03 := by bv_omega
  obtain rfl | rfl | rfl | rfl := hidx
  · exact h1
  · exact h2
  · exact h3
  · exact h4

/-- A write beside any capture word leaves its threshold at the value written. -/
theorem stepWith_write_readReg (s : State) (c : PortBits) {idx : RegIdx} (v : RegWord) (h : idx.toNat ≤ 3) :
    (s.stepWith ⟨0, c, hostWord 0b10 idx v⟩).readReg idx = v := by
  rw [stepWith_of_rst_zero s rfl, decodeHost_write]
  refine (readReg_threshold_eq h ?_ ?_ ?_ ?_).trans (readReg_writeReg_threshold ((s.setInputs []).setEvents []) v h)
  all_goals simp [execNext]

/-- Settles O36: the read in the second step finds the threshold the first step left. -/
theorem thresholdsReadBackAsWritten : Obligations.ThresholdsReadBackAsWritten := by
  intro s idx v c c' h
  rw [feed_cons, feed_singleton, State.setInputs_rdata, stepWith_rdata_of_reads _ (reads_of_hostWord c' idx)]
  exact stepWith_write_readReg s c v h

end Sys2Proof.Machine
end

section
/-! PROOFS. Runs: idle steps, the block before calibration, and the demodulator on an encoded stream of bits. -/

namespace Sys2Proof.Machine

/-! ## Idle steps (70_reset_and_hazards.md R232) -/

/-- Settles O39, by induction on the run; the rest of a run reads nothing but the architectural state. -/
theorem idleStepsMayBeLeftOut : Obligations.IdleStepsMayBeLeftOut := by
  intro s ws
  induction ws generalizing s with
  | nil => rfl
  | cons w ws ih =>
    rw [feed_cons]
    by_cases hidle : w = lineIdle
    · subst hidle
      rw [List.filter_cons_of_neg (by simp), ih]
      exact feed_arch (stepWith_lineIdle_arch s).symm ws
    · rw [List.filter_cons_of_pos (by simpa using hidle), feed_cons, ih]

/-! ## Before the thresholds are written (70_reset_and_hazards.md R225) -/

/-- An interval in neither window. -/
theorem stepWith_invalid {s : State} {n : Tick} (hc : s.classify n = .invalid) :
    s.stepWith (lineInterval n) =
      { s.demodulated (!s.edgeSel) false with pos := 0, events := [.fault .signalTimingFault] } := by
  rw [stepWith_lineInterval, interval_of_invalid (s := (s.setInputs []).setEvents []) hc]
  rfl

/-- Both windows are empty at reset (10_state.md R44). -/
theorem reset_classify (e : Bool) (n : Tick) : (State.reset.setEdgeSel e).classify n = .invalid := by
  rw [classify_eq_invalid_iff]
  have hlo : (0xFFFF : Tick).toNat = 65535 := rfl
  have hhi : (0x0000 : Tick).toNat = 0 := rfl
  simp only [State.setEdgeSel_oneMin, State.setEdgeSel_oneMax, State.setEdgeSel_zeroMin, State.setEdgeSel_zeroMax,
    State.reset_oneMin, State.reset_oneMax, State.reset_zeroMin, State.reset_zeroMax, hlo, hhi]
  omega

theorem decide_odd_succ (k : Nat) : decide ((k + 1) % 2 = 1) = !decide (k % 2 = 1) := by
  rw [← decide_not, decide_eq_decide]
  omega

theorem reset_feed_intervals (e : Bool) (ns : List Tick) :
    ((State.reset.setEdgeSel e).feed (ns.map lineInterval)).arch =
      State.reset.setEdgeSel (e ^^ decide (ns.length % 2 = 1)) := by
  induction ns generalizing e with
  | nil => cases e <;> rfl
  | cons n ns ih =>
    have hstep : ((State.reset.setEdgeSel e).stepWith (lineInterval n)).arch = (State.reset.setEdgeSel (!e)).arch := by
      rw [stepWith_invalid (reset_classify e n)]; rfl
    rw [List.map_cons, feed_cons, feed_arch hstep, ih, List.length_cons, decide_odd_succ, Bool.not_xor, Bool.xor_not]

/-- Settles O40: every interval is a signal timing fault, which finds `pos` and `pending` at 0 already. -/
theorem unconfiguredBlockStaysAtReset : Obligations.UnconfiguredBlockStaysAtReset := by
  intro ns n
  have hrun := reset_feed_intervals false ns
  rw [Bool.false_xor] at hrun
  refine ⟨hrun, ?_⟩
  have harch : (State.reset.feed (ns.map lineInterval)).arch =
    (State.reset.setEdgeSel (decide (ns.length % 2 = 1))).arch := hrun
  rw [List.map_append, List.map_singleton, feed_concat, stepWith_eq_of_arch harch,
    stepWith_invalid (reset_classify _ n)]
  rfl

/-! ## An aligned demodulator (40_demodulator.md R105) -/

theorem classify_arch (s : State) (n : Tick) : s.arch.classify n = s.classify n := rfl

section
variable {s t : State} (h : s.arch = t.arch)
include h

theorem classify_eq_of_arch (n : Tick) : s.classify n = t.classify n := by
  rw [← classify_arch, h, classify_arch]

theorem calibrated_of_arch {half full : Tick} (hc : t.Calibrated half full) : s.Calibrated half full :=
  ⟨(classify_eq_of_arch h half).trans hc.1, (classify_eq_of_arch h full).trans hc.2⟩

theorem pending_eq_of_arch : s.pending = t.pending := by
  rw [← arch_pending, h, arch_pending]

theorem edgeSel_eq_of_arch : s.edgeSel = t.edgeSel := by
  rw [← arch_edgeSel, h, arch_edgeSel]

theorem demodulated_eq_of_arch (e p : Bool) : s.demodulated e p = t.demodulated e p := by
  have harch (u : State) : u.arch.demodulated e p = u.demodulated e p := rfl
  rw [← harch, h, harch]

end

/-- The bits pushed leave what the demodulator reads. -/
theorem pushBits_keeps (s : State) (bs : List Bool) :
    (s.pushBits bs).pending = s.pending ∧ (s.pushBits bs).edgeSel = s.edgeSel ∧
    ∀ n, (s.pushBits bs).classify n = s.classify n := by
  induction bs generalizing s with
  | nil => exact ⟨rfl, rfl, fun _ => rfl⟩
  | cons b bs ih =>
    obtain ⟨hpending, hedge, -, -, -, hclassify⟩ := pushBit_keeps s b
    obtain ⟨ipending, iedge, iclassify⟩ := ih (s.pushBit b)
    exact ⟨ipending.trans hpending, iedge.trans hedge, fun n => (iclassify n).trans (hclassify n)⟩

/-- A 1-bit is two intervals and a 0-bit one. -/
theorem decide_odd_pseudoBit (half full : Tick) (b : Bool) (ws : List StepWords) :
    decide ((pseudoBit half full b ++ ws).length % 2 = 1) = ((!b) ^^ decide (ws.length % 2 = 1)) := by
  cases b with
  | false =>
    show decide ((ws.length + 1) % 2 = 1) = _
    rw [decide_odd_succ, Bool.not_false, Bool.true_xor]
  | true =>
    show decide ((ws.length + 1 + 1) % 2 = 1) = _
    rw [decide_odd_succ, decide_odd_succ, Bool.not_not, Bool.not_true, Bool.false_xor]

/-- The intervals of a stream of bits, with nothing pending. -/
theorem feed_pseudoBits_arch {s : State} {half full : Tick} (hc : s.Calibrated half full) (hp : s.pending = false)
    (bits : List Bool) : (s.feed (pseudoBits half full bits)).arch =
      ((s.pushBits bits).setEdgeSel (s.edgeSel ^^ decide ((pseudoBits half full bits).length % 2 = 1))).arch := by
  induction bits generalizing s with
  | nil =>
    have hnone : decide (([] : List StepWords).length % 2 = 1) = false := rfl
    rw [pseudoBits, hnone, Bool.xor_false]
    rfl
  | cons b bs ih =>
    rw [pseudoBits_cons, feed_append, feed_pseudoBit s half full b hc hp, decide_odd_pseudoBit, ← Bool.xor_assoc]
    generalize he : (s.edgeSel ^^ !b) = e
    obtain ⟨kpending, kedge, -⟩ := pushBit_keeps (s.demodulated e false) b
    have harch : ((s.demodulated e false).pushBit b).arch = ((s.pushBit b).setEdgeSel e).arch := by
      have hsame : (s.demodulated e false).arch = (s.setEdgeSel e).arch := by
        rw [demodulated_arch, ← hp]; rfl
      rw [pushBit_arch hsame, pushBit_setEdgeSel]
    rw [ih (calibrated_pushBit hc e false b) kpending, kedge, setEdgeSel_arch, pushBits_arch harch, pushBits_setEdgeSel]
    rfl

theorem feed_pseudoBits_pending {s : State} {half full : Tick} (hc : s.Calibrated half full) (hp : s.pending = false)
    (bits : List Bool) : (s.feed (pseudoBits half full bits)).pending = false :=
  (pending_eq_of_arch (feed_pseudoBits_arch hc hp bits)).trans ((pushBits_keeps s bits).1.trans hp)

/-- Settles O41. -/
theorem alignedDemodulatorEmitsTheBits : Obligations.AlignedDemodulatorEmitsTheBits :=
  fun _ _ _ bits hc hp => ⟨(feed_pseudoBits_arch hc hp bits).trans (setEdgeSel_arch _ _), feed_pseudoBits_pending hc hp bits⟩

/-- The last bit of a stream, with the record of its own step. -/
theorem feed_pseudoBits_concat {s : State} {half full : Tick} (hc : s.Calibrated half full) (hp : s.pending = false)
    (bits : List Bool) (b : Bool) : ∃ e, s.feed (pseudoBits half full (bits ++ [b])) =
      ((s.pushBits bits).demodulated e false).pushBit b := by
  have harch := feed_pseudoBits_arch hc hp bits
  have hcal : (s.feed (pseudoBits half full bits)).Calibrated half full := by
    obtain ⟨-, -, hclassify⟩ := pushBits_keeps s bits
    exact calibrated_of_arch harch ⟨(hclassify half).trans hc.1, (hclassify full).trans hc.2⟩
  have hlast : pseudoBits half full [b] = pseudoBit half full b := List.append_nil _
  refine ⟨(s.feed (pseudoBits half full bits)).edgeSel ^^ !b, ?_⟩
  rw [pseudoBits_append, feed_append, hlast,
    feed_pseudoBit _ half full b hcal (feed_pseudoBits_pending hc hp bits)]
  rw [demodulated_eq_of_arch harch]
  rfl

/-! ## A misaligned demodulator (40_demodulator.md R105) -/

/-- The two half-cells of a 1-bit, with a half-bit pending: the first emits a 1, the second is left pending. -/
theorem feed_misaligned_one {s : State} {half full : Tick} (hc : s.Calibrated half full) (hp : s.pending = true) :
    (s.feed (pseudoBit half full true)).arch = (s.pushBit true).arch := by
  obtain ⟨kpending, kedge, -⟩ := pushBit_keeps s true
  obtain ⟨dpending, dedge, -⟩ := pushBit_keeps (s.demodulated (!s.edgeSel) false) true
  have hline : pseudoBit half full true = [lineInterval half, lineInterval half] := rfl
  rw [hline, feed_cons, stepWith_second_half s half hc.1 hp, feed_singleton,
    stepWith_first_half _ half (calibrated_pushBit hc _ _ _).1 dpending, dedge, setInputs_arch, demodulated_arch]
  have harch : ((s.demodulated (!s.edgeSel) false).pushBit true).arch =
      (((s.pushBit true).setEdgeSel (!s.edgeSel)).setPending false).arch := by
    rw [← pushBit_setEdgeSel, ← pushBit_setPending]
    exact pushBit_arch (demodulated_arch s _ _) true
  have hedge : (s.demodulated (!s.edgeSel) false).edgeSel = !s.edgeSel := rfl
  rw [setPending_arch, setEdgeSel_arch, harch, hedge]
  apply State.ext <;> simp [kedge, kpending, hp]

theorem feed_misaligned_ones {s : State} {half full : Tick} (hc : s.Calibrated half full) (hp : s.pending = true)
    (k : Nat) : (s.feed (pseudoBits half full (List.replicate k true))).arch =
      (s.pushBits (List.replicate k true)).arch := by
  induction k generalizing s with
  | zero => rfl
  | succ k ih =>
    have hone := feed_misaligned_one hc hp
    obtain ⟨kpending, -, -, -, -, kclassify⟩ := pushBit_keeps s true
    have hcal : (s.feed (pseudoBit half full true)).Calibrated half full :=
      calibrated_of_arch hone ⟨(kclassify half).trans hc.1, (kclassify full).trans hc.2⟩
    have hpending : (s.feed (pseudoBit half full true)).pending = true :=
      (pending_eq_of_arch hone).trans (kpending.trans hp)
    rw [List.replicate_succ, pseudoBits_cons, feed_append, ih hcal hpending]
    exact pushBits_arch hone _

/-- Settles O42: the 1-bits keep a half-bit pending, so the 0-bit's full cell is an alignment fault. -/
theorem firstZeroBitRealignsThePairing : Obligations.FirstZeroBitRealignsThePairing := by
  intro s half full k hc hp
  have harch := feed_misaligned_ones hc hp k
  obtain ⟨kpending, kedge, kclassify⟩ := pushBits_keeps s (List.replicate k true)
  have hfull : (s.feed (pseudoBits half full (List.replicate k true))).classify full = .full :=
    (classify_eq_of_arch harch full).trans ((kclassify full).trans hc.2)
  have hpending : (s.feed (pseudoBits half full (List.replicate k true))).pending = true :=
    (pending_eq_of_arch harch).trans (kpending.trans hp)
  have hedge : (s.feed (pseudoBits half full (List.replicate k true))).edgeSel = s.edgeSel :=
    (edgeSel_eq_of_arch harch).trans kedge
  have hzero : pseudoBits half full [false] = [lineInterval full] := rfl
  rw [pseudoBits_append, feed_append, hzero, feed_singleton, stepWith_misaligned _ full hfull hpending, hedge, ← harch]
  exact ⟨rfl, rfl⟩

end Sys2Proof.Machine
end

section
/-! PROOFS. Whole frames: the sync word anchors the decoder from any state, and an anchored frame is published exactly. -/

namespace Sys2Proof.Machine

/-! ## The run counter at the end of the sync run (41_frame_assembler.md R121, R122) -/

theorem pushBit_false_ones (s : State) : (s.pushBit false).ones = 0 :=
  pushBit_ones_of_not_detects fun h => Bool.false_ne_true h.1

theorem pushBits_ones_of_true {s : State} {k : Nat} (h : s.ones.toNat + k ≤ 11) :
    (s.pushBits (List.replicate k true)).ones.toNat = s.ones.toNat + k := by
  induction k generalizing s with
  | zero => rfl
  | succ k ih =>
    have hd : ¬ Detects s true := fun hd => by
      obtain ⟨-, h11⟩ := (detects_iff s true).mp hd
      omega
    have hones : (s.pushBit true).ones.toNat = s.ones.toNat + 1 := by
      rw [pushBit_ones_of_not_detects hd, onesAfter_true_toNat (by omega)]
    rw [List.replicate_succ, State.pushBits, ih (by omega), hones]
    omega

/-- A 0-bit and then eleven 1-bits bring the run counter to 11, whatever went before. -/
theorem pushBits_ones_before_sync (s : State) (bits : List Bool) :
    (s.pushBits (bits ++ false :: List.replicate 11 true)).ones.toNat = 11 := by
  have hzero : ((s.pushBits bits).pushBit false).ones.toNat = 0 := congrArg BitVec.toNat (pushBit_false_ones _)
  rw [pushBits_append, State.pushBits, pushBits_ones_of_true (by omega), hzero]

/-! ## The twelfth 1-bit and the two bits after it (41_frame_assembler.md R122, R125) -/

/-- The 0-bit after a sync detection counts and shifts nothing. -/
theorem pushBits_sync_zero {s : State} (h : s.ones.toNat = 11) : s.pushBits [true, false] =
    { s with ones := 0, syncSeen := true, pos := 79, events := s.events ++ [.sync] } := by
  have hsync := pushBit_of_detects s true ((detects_iff s true).mpr ⟨rfl, h⟩)
  simp only [State.pushBits]
  rw [hsync, pushBit_of_counts _ false (fun hd => Bool.false_ne_true hd.1) (show (78 : BitVec 7) + 1 ≠ 80 by decide),
    bufAfter_of_pos_ge false (show 64 ≤ (78 : BitVec 7).toNat by decide)]
  rfl

/-- The bit after those two completes the window with sync seen. -/
theorem pushBit_publishes_after_sync_zero {s : State} (hp : s.pos = 79) (hs : s.syncSeen = true) (ho : s.ones = 0)
    (b : Bool) : s.pushBit b =
      { s with
        ones := if b then 1 else 0, pos := 0, syncSeen := false, frameReady := true,
        outStr := formatFrame s.buf, outDf := dropFrame s.buf, events := s.events ++ [.publish] } := by
  have hd : ¬ Detects s b := fun hd => by
    obtain ⟨-, h11⟩ := (detects_iff s b).mp hd
    rw [ho] at h11
    exact absurd h11 (by decide)
  have hones : onesAfter s b = if b then 1 else 0 := by rw [onesAfter, ho]; rfl
  rw [pushBit_of_publishes s b hd (by rw [hp]; rfl) hs, hones]

section
variable {s : State} {half full : Tick} (hc : s.Calibrated half full) (hp : s.pending = false) {bits : List Bool}
  (h : (s.pushBits bits).ones.toNat = 11)
include hc hp h

/-- A stream whose last bit is the twelfth 1-bit. -/
theorem feed_of_sync : ∃ e, s.feed (pseudoBits half full (bits ++ [true])) =
    { (s.pushBits bits).demodulated e false with ones := 0, syncSeen := true, pos := 78, events := [.sync] } := by
  obtain ⟨e, hfeed⟩ := feed_pseudoBits_concat hc hp bits true
  exact ⟨e, hfeed.trans (pushBit_of_detects _ true ((detects_iff _ true).mpr ⟨rfl, h⟩))⟩

/-- A stream that ends with the twelfth 1-bit, a 0-bit and one more bit publishes the buffer as it is. -/
theorem feed_of_sync_and_two (b : Bool) : ∃ e, s.feed (pseudoBits half full (bits ++ [true, false, b])) =
    { (s.pushBits bits).demodulated e false with
      ones := if b then 1 else 0, pos := 0, syncSeen := false, frameReady := true,
      outStr := formatFrame (s.pushBits bits).buf, outDf := dropFrame (s.pushBits bits).buf, events := [.publish] } := by
  have hsplit : bits ++ [true, false, b] = (bits ++ [true, false]) ++ [b] := by simp
  obtain ⟨e, hfeed⟩ := feed_pseudoBits_concat hc hp (bits ++ [true, false]) b
  refine ⟨e, ?_⟩
  rw [hsplit, hfeed, pushBits_append, pushBits_sync_zero h, pushBit_publishes_after_sync_zero rfl rfl rfl]
  rfl

end

/-! ## The sync word (41_frame_assembler.md R127 a) -/

/-- A stream of bits detects sync at its last bit but two, and publishes at its last bit. -/
def State.AnchorsOn (s : State) (half full : Tick) (bits : List Bool) : Prop :=
  (let u := s.feed (pseudoBits half full (bits.take (bits.length - 2)))
   u.events = [.sync] ∧ u.pos = 78 ∧ u.syncSeen = true ∧ u.ones = 0) ∧
  (let t := s.feed (pseudoBits half full bits)
   t.events = [.publish] ∧ t.frameReady = true ∧ t.pos = 0 ∧ t.pending = false ∧ t.syncSeen = false ∧ t.ones = 1)

/-- With nothing pending the second 0-bit of the sync word starts the run, so the first is not needed. -/
theorem anchorsOn_of_aligned {s : State} {half full : Tick} (hc : s.Calibrated half full) (hp : s.pending = false) :
    s.AnchorsOn half full (syncWord.drop 1) := by
  have h11 := pushBits_ones_before_sync s []
  obtain ⟨e, hsync⟩ := feed_of_sync hc hp h11
  obtain ⟨e', hpublish⟩ := feed_of_sync_and_two hc hp h11 true
  have htake : (syncWord.drop 1).take ((syncWord.drop 1).length - 2) =
    ([] ++ false :: List.replicate 11 true) ++ [true] := rfl
  have hword : syncWord.drop 1 = ([] ++ false :: List.replicate 11 true) ++ [true, false, true] := rfl
  refine ⟨?_, ?_⟩
  · rw [htake, hsync]; exact ⟨rfl, rfl, rfl, rfl⟩
  · rw [hword, hpublish]; exact ⟨rfl, rfl, rfl, rfl, rfl, rfl⟩

/-- Reading a 0-bit leaves nothing pending in either case: it is emitted, or it is an alignment fault. -/
theorem feed_zero_bit_aligns {s : State} {half full : Tick} (hc : s.Calibrated half full) :
    (s.feed (pseudoBit half full false)).pending = false ∧
    (s.feed (pseudoBit half full false)).Calibrated half full := by
  cases hp : s.pending with
  | false =>
    rw [feed_pseudoBit s half full false hc hp]
    exact ⟨(pushBit_keeps _ false).1, calibrated_pushBit hc _ _ _⟩
  | true =>
    have hline : pseudoBit half full false = [lineInterval full] := rfl
    rw [hline, feed_singleton, stepWith_misaligned s full hc.2 hp]
    exact ⟨rfl, hc⟩

/-- From any state the first 0-bit of the sync word aligns the demodulator for the other fifteen bits. -/
theorem anchorsOn_syncWord {s : State} {half full : Tick} (hc : s.Calibrated half full) :
    s.AnchorsOn half full syncWord := by
  obtain ⟨hp, hc'⟩ := feed_zero_bit_aligns hc
  have hfeed (bits : List Bool) : s.feed (pseudoBits half full (false :: bits)) =
      (s.feed (pseudoBit half full false)).feed (pseudoBits half full bits) := by
    rw [pseudoBits_cons, feed_append]
  have hword : syncWord = false :: syncWord.drop 1 := rfl
  have htake : syncWord.take (syncWord.length - 2) =
    false :: (syncWord.drop 1).take ((syncWord.drop 1).length - 2) := rfl
  have hanchors := anchorsOn_of_aligned hc' hp
  unfold State.AnchorsOn at hanchors ⊢
  rwa [htake, hfeed, hword, hfeed]

/-- Settles O43. -/
theorem syncWordAnchorsTheDecoder : Obligations.SyncWordAnchorsTheDecoder := by
  rintro s half full bits hc (rfl | ⟨hp, rfl⟩)
  · exact anchorsOn_syncWord hc
  · exact anchorsOn_of_aligned hc hp

/-! ## Bits without a false sync (41_frame_assembler.md R127 b) -/

/-- The first of bits that hold no sync run is no detection, and the rest hold none from the counter it leaves. -/
theorem not_detects_of_noSyncRun_cons {s : State} {b : Bool} {bs : List Bool} (h : noSyncRun s.ones.toNat (b :: bs) = true) :
    ¬ Detects s b ∧ noSyncRun (onesAfter s b).toNat bs = true := by
  rw [detects_iff]
  cases b with
  | false => exact ⟨fun hd => Bool.false_ne_true hd.1, h⟩
  | true =>
    obtain ⟨hlt, hrest⟩ := (Bool.and_eq_true _ _).mp h
    have hlt := of_decide_eq_true hlt
    rw [onesAfter_true_toNat (by omega)]
    exact ⟨fun hd => by omega, hrest⟩

/-- Short of the end of the window the buffer takes those of such bits that fall in the data region. -/
theorem pushBits_buf_of_noSyncRun {s : State} {bs : List Bool} (h : noSyncRun s.ones.toNat bs = true)
    (hlen : s.pos.toNat + bs.length < 80) :
    (s.pushBits bs).buf = shiftAll s.buf (bs.take (64 - s.pos.toNat)) := by
  induction bs generalizing s with
  | nil => rw [List.take_nil]; rfl
  | cons b bs ih =>
    obtain ⟨hd, hrest⟩ := not_detects_of_noSyncRun_cons h
    rw [List.length_cons] at hlen
    have hp : s.pos + 1 ≠ 80 := fun hp => by have := (pos_succ_eq_frameBits_iff s).mp hp; omega
    have hpos : (s.pos + 1).toNat = s.pos.toNat + 1 := by bv_omega
    rw [State.pushBits, pushBit_of_counts s b hd hp]
    rw [ih (s := { s with ones := onesAfter s b, buf := bufAfter s b, pos := s.pos + 1 }) hrest (by rw [hpos]; omega), hpos]
    by_cases hdata : s.pos.toNat ≤ 63
    · have hmore : 64 - s.pos.toNat = (64 - (s.pos.toNat + 1)) + 1 := by omega
      rw [bufAfter_of_pos_le b hdata, hmore, List.take_succ_cons, shiftAll]
    · have hnone : 64 - s.pos.toNat = 0 := by omega
      have hnone' : 64 - (s.pos.toNat + 1) = 0 := by omega
      rw [bufAfter_of_pos_ge b (by omega), hnone, hnone', List.take_zero, List.take_zero]

theorem dataBits_length (v : BitVec 64) : (dataBits v).length = 64 := by
  rw [dataBits, List.length_map, List.length_range]

theorem dataBits_getElem (v : BitVec 64) (i : Nat) (hi : i < (dataBits v).length) : (dataBits v)[i] = v.getLsbD i := by
  simp only [dataBits, List.getElem_map, List.getElem_range]

theorem bufValue_shiftAll_dataBits (b : FrameBuf) (v : BitVec 64) : bufValue (shiftAll b (dataBits v)) = v := by
  apply BitVec.eq_of_getLsbD_eq
  intro i hi
  rw [bufValue_shiftAll_of_length_64 b (dataBits_length v) i hi, dataBits_getElem]

/-- The first 77 bits of a frame: the data bits, and the sync word up to its twelfth 1-bit. -/
def bitsBeforeSync (v : BitVec 64) : List Bool := (dataBits v ++ [false]) ++ false :: List.replicate 11 true

theorem frameBitsOf_eq (v : BitVec 64) : frameBitsOf v = bitsBeforeSync v ++ [true, false, true] := by
  rw [frameBitsOf, bitsBeforeSync, List.append_assoc, List.append_assoc]
  rfl

theorem bitsBeforeSync_length (v : BitVec 64) : (bitsBeforeSync v).length = 77 := by
  simp [bitsBeforeSync, dataBits_length]

theorem frameBitsOf_take_77 (v : BitVec 64) : (frameBitsOf v).take 77 = bitsBeforeSync v := by
  rw [frameBitsOf_eq, List.take_left' (bitsBeforeSync_length v)]

theorem bitsBeforeSync_take_64 (v : BitVec 64) : (bitsBeforeSync v).take 64 = dataBits v := by
  rw [bitsBeforeSync, List.append_assoc, List.take_left' (dataBits_length v)]

theorem pushBits_bitsBeforeSync_ones (s : State) (v : BitVec 64) :
    (s.pushBits (bitsBeforeSync v)).ones.toNat = 11 :=
  pushBits_ones_before_sync s (dataBits v ++ [false])

/-- Settles O44: the 64 data bits fill the buffer, and the sync word publishes it. -/
theorem anchoredFrameIsPublishedExactly : Obligations.AnchoredFrameIsPublishedExactly := by
  intro s half full v hc hp hpos hrun
  rw [frameBitsOf_take_77] at hrun
  have hstart : s.pos.toNat = 0 := congrArg BitVec.toNat hpos
  have hbuf : bufValue (s.pushBits (bitsBeforeSync v)).buf = v := by
    rw [pushBits_buf_of_noSyncRun hrun (by rw [hstart, bitsBeforeSync_length]; decide), hstart, bitsBeforeSync_take_64,
      bufValue_shiftAll_dataBits]
  obtain ⟨e, hfeed⟩ := feed_of_sync_and_two hc hp (pushBits_bitsBeforeSync_ones s v) true
  rw [frameBitsOf_eq, hfeed]
  generalize s.pushBits (bitsBeforeSync v) = u at hbuf
  have hchars := formatFrame_toNat u.buf
  have hdf := dropFrame_eq_of_value u.buf
  simp only [hbuf, ← getLsbD_eq_true_iff_div_mod] at hchars hdf
  exact ⟨rfl, rfl, hbuf, hdf, hchars, rfl, rfl, rfl, rfl⟩

end Sys2Proof.Machine
end

section
/-! PROOFS. Valid timecodes: no false sync in their digits, and the end-to-end decoding of a frame from any state; and the distance between two publishes. -/

namespace Sys2Proof.Machine

/-! ## Bits that hold no run of twelve (41_frame_assembler.md R129) -/

/-- A lower run counter is no worse. -/
theorem noSyncRun_anti {k k' : Nat} (hk : k' ≤ k) {bs : List Bool} (h : noSyncRun k bs = true) :
    noSyncRun k' bs = true := by
  induction bs generalizing k k' with
  | nil => rfl
  | cons b bs ih =>
    cases b with
    | false => exact h
    | true =>
      obtain ⟨hlt, hrest⟩ := (Bool.and_eq_true _ _).mp h
      have hlt' : k' + 1 < 12 := by
        have := of_decide_eq_true hlt
        omega
      exact (Bool.and_eq_true _ _).mpr ⟨decide_eq_true hlt', ih (by omega) hrest⟩

/-- Few enough bits raise the run counter by their number at most. -/
theorem noSyncRun_append_of_short {k : Nat} {xs ys : List Bool} (hk : k + xs.length < 12)
    (h : noSyncRun (k + xs.length) ys = true) : noSyncRun k (xs ++ ys) = true := by
  induction xs generalizing k with
  | nil => exact h
  | cons x xs ih =>
    rw [List.length_cons] at hk h
    cases x with
    | false => exact ih (k := 0) (by omega) (noSyncRun_anti (by omega) h)
    | true =>
      have hlt : k + 1 < 12 := by omega
      have hsum : k + 1 + xs.length = k + (xs.length + 1) := by omega
      exact (Bool.and_eq_true _ _).mpr ⟨decide_eq_true hlt, ih (by omega) (hsum ▸ h)⟩

/-- A 0-bit cuts the bits in two. -/
theorem noSyncRun_append_false (k : Nat) (xs ys : List Bool) :
    noSyncRun k (xs ++ false :: ys) = (noSyncRun k xs && noSyncRun 0 ys) := by
  induction xs generalizing k with
  | nil => rfl
  | cons x xs ih =>
    cases x with
    | false => exact ih 0
    | true =>
      show (decide (k + 1 < 12) && noSyncRun (k + 1) (xs ++ false :: ys)) = _
      rw [ih, ← Bool.and_assoc]
      rfl

/-- From bit `a` on, the bits up to a later bit `z` raise the run counter by their number at most. -/
theorem noSyncRun_drop_advance {bs : List Bool} {k a z : Nat} (haz : a ≤ z) (hz : z ≤ bs.length) (hk : k + (z - a) < 12)
    (h : noSyncRun (k + (z - a)) (bs.drop z) = true) : noSyncRun k (bs.drop a) = true := by
  have hlen : ((bs.drop a).take (z - a)).length = z - a := by
    rw [List.length_take, List.length_drop]; omega
  have hrest : (bs.drop a).drop (z - a) = bs.drop z := by
    rw [List.drop_drop]; congr 1; omega
  rw [← List.take_append_drop (z - a) (bs.drop a), hrest]
  exact noSyncRun_append_of_short (by omega) (by rwa [hlen])

/-- Of two bits one is a 0: the run counter is at most their distance after the later one. -/
theorem noSyncRun_drop_of_zero {bs : List Bool} {k a z z' : Nat} (haz : a ≤ z) (hzz : z < z') (hz : z' < bs.length)
    (hk : k + (z' - a) < 12) (hzero : ¬ (bs[z] = true ∧ bs[z'] = true))
    (h : noSyncRun (z' - z) (bs.drop (z' + 1)) = true) : noSyncRun k (bs.drop a) = true := by
  have hdist : 0 + (z' + 1 - (z + 1)) = z' - z := by omega
  by_cases hbit : bs[z] = true
  · refine noSyncRun_drop_advance (by omega) hz.le (by omega) ?_
    rw [List.drop_eq_getElem_cons hz, Bool.eq_false_iff.mpr fun hbit' => hzero ⟨hbit, hbit'⟩]
    exact noSyncRun_anti (Nat.zero_le _) h
  · refine noSyncRun_drop_advance haz (by omega) (by omega) ?_
    rw [List.drop_eq_getElem_cons (by omega), Bool.eq_false_iff.mpr hbit]
    exact noSyncRun_drop_advance (z := z' + 1) (by omega) hz (by omega) (hdist ▸ h)

/-- The same for the data bits, read from their value. -/
theorem noSyncRun_dataBits_of_zero {v : BitVec 64} {k a : Nat} (z z' : Nat) (haz : a ≤ z) (hzz : z < z') (hz : z' < 64)
    (hk : k + (z' - a) < 12) (hzero : ¬ (v.toNat / 2 ^ z % 2 = 1 ∧ v.toNat / 2 ^ z' % 2 = 1))
    (h : noSyncRun (z' - z) ((dataBits v).drop (z' + 1)) = true) : noSyncRun k ((dataBits v).drop a) = true := by
  refine noSyncRun_drop_of_zero haz hzz (by rwa [dataBits_length]) hk ?_ h
  rwa [dataBits_getElem, dataBits_getElem, getLsbD_eq_true_iff_div_mod, getLsbD_eq_true_iff_div_mod]

/-- Settles O45: each digit in range holds a 0 in one of two places, and from place to place it is never far. -/
theorem validDigitsHoldNoFalseSync : Obligations.ValidDigitsHoldNoFalseSync := by
  intro v hff tff hss tss hmm tmm hhh thh
  show noSyncRun 1 ((dataBits v).drop 0) = true
  refine noSyncRun_dataBits_of_zero 1 3 (by decide) (by decide) (by decide) (by decide) (by omega) ?_
  refine noSyncRun_dataBits_of_zero 8 9 (by decide) (by decide) (by decide) (by decide) (by omega) ?_
  refine noSyncRun_dataBits_of_zero 17 19 (by decide) (by decide) (by decide) (by decide) (by omega) ?_
  refine noSyncRun_dataBits_of_zero 25 26 (by decide) (by decide) (by decide) (by decide) (by omega) ?_
  refine noSyncRun_dataBits_of_zero 33 35 (by decide) (by decide) (by decide) (by decide) (by omega) ?_
  refine noSyncRun_dataBits_of_zero 41 42 (by decide) (by decide) (by decide) (by decide) (by omega) ?_
  refine noSyncRun_dataBits_of_zero 49 51 (by decide) (by decide) (by decide) (by decide) (by omega) ?_
  refine noSyncRun_dataBits_of_zero 56 57 (by decide) (by decide) (by decide) (by decide) (by omega) ?_
  refine noSyncRun_drop_advance (z := 64) (by decide) (dataBits_length v).ge (by decide) ?_
  rw [List.drop_of_length_le (dataBits_length v).le]
  rfl

/-! ## The frame of a timecode (42_bcd_extractor.md R151 to R159) -/

theorem append_toNat_eq_add {m n : Nat} (x : BitVec m) (y : BitVec n) :
    (x ++ y).toNat = x.toNat * 2 ^ n + y.toNat := by
  rw [BitVec.toNat_append, Nat.shiftLeft_eq, Nat.mul_comm, Nat.two_pow_add_eq_or_of_lt y.isLt]

/-- The value of a timecode's frame, byte by byte from the top. -/
theorem frameValue_toNat {hh mm ss ff : Nat} (df : Bool) (hhh : hh < 24) (hmm : mm < 60) (hss : ss < 60) (hff : ff < 30) :
    (frameValue hh mm ss ff df).toNat =
      ((((((hh / 10 * 2 ^ 8 + hh % 10) * 2 ^ 8 + mm / 10) * 2 ^ 8 + mm % 10) * 2 ^ 8 + ss / 10) * 2 ^ 8 +
        ss % 10) * 2 ^ 8 + (ff / 10 + 4 * df.toNat)) * 2 ^ 8 + ff % 10 := by
  have hdf := Bool.toNat_le df
  have byte (d : Nat) (hd : d < 256) : (BitVec.ofNat 8 d).toNat = d := by
    rw [BitVec.toNat_ofNat]; exact Nat.mod_eq_of_lt hd
  show BitVec.toNat (w := 8 + 8 + 8 + 8 + 8 + 8 + 8 + 8) _ = _
  unfold frameValue
  simp only [append_toNat_eq_add]
  rw [byte (hh / 10) (by omega), byte (hh % 10) (by omega), byte (mm / 10) (by omega), byte (mm % 10) (by omega),
    byte (ss / 10) (by omega), byte (ss % 10) (by omega), byte (ff / 10 + 4 * df.toNat) (by omega),
    byte (ff % 10) (by omega)]

/-- A field above the lowest byte does not see that byte. -/
theorem div_above_byte (x : Nat) {a : Nat} (ha : a < 2 ^ 8) (k : Nat) : (x * 2 ^ 8 + a) / 2 ^ (k + 8) = x / 2 ^ k := by
  rw [Nat.add_comm k, Nat.pow_add, ← Nat.div_div_eq_div_mul, Nat.mul_comm, Nat.mul_add_div (Nat.two_pow_pos 8),
    Nat.div_eq_of_lt ha, Nat.add_zero]

/-- The fields of a timecode's frame are its digits. -/
theorem frameValue_digits {hh mm ss ff : Nat} (df : Bool) (hhh : hh < 24) (hmm : mm < 60) (hss : ss < 60)
    (hff : ff < 30) : let n := (frameValue hh mm ss ff df).toNat
    n / 2 ^ 56 % 4 = hh / 10 ∧ n / 2 ^ 48 % 16 = hh % 10 ∧ n / 2 ^ 40 % 8 = mm / 10 ∧ n / 2 ^ 32 % 16 = mm % 10 ∧
    n / 2 ^ 24 % 8 = ss / 10 ∧ n / 2 ^ 16 % 16 = ss % 10 ∧ n / 2 ^ 8 % 4 = ff / 10 ∧ n % 16 = ff % 10 ∧
    n / 2 ^ 10 % 2 = df.toNat := by
  have hdf := Bool.toNat_le df
  have b6 : hh % 10 < 2 ^ 8 := by omega
  have b5 : mm / 10 < 2 ^ 8 := by omega
  have b4 : mm % 10 < 2 ^ 8 := by omega
  have b3 : ss / 10 < 2 ^ 8 := by omega
  have b2 : ss % 10 < 2 ^ 8 := by omega
  have b1 : ff / 10 + 4 * df.toNat < 2 ^ 8 := by omega
  have b0 : ff % 10 < 2 ^ 8 := by omega
  rw [frameValue_toNat df hhh hmm hss hff]
  simp only [div_above_byte _ b0, div_above_byte _ b1, div_above_byte _ b2, div_above_byte _ b3, div_above_byte _ b4,
    div_above_byte _ b5, div_above_byte _ b6]
  refine ⟨?_, ?_, ?_, ?_, ?_, ?_, ?_, ?_, ?_⟩ <;> omega

theorem frameValue_getLsbD_10 {hh mm ss ff : Nat} (df : Bool) (hhh : hh < 24) (hmm : mm < 60) (hss : ss < 60)
    (hff : ff < 30) : (frameValue hh mm ss ff df).getLsbD 10 = df := by
  obtain ⟨-, -, -, -, -, -, -, -, hflag⟩ := frameValue_digits df hhh hmm hss hff
  rw [Bool.eq_iff_iff, getLsbD_eq_true_iff_div_mod, hflag, Bool.toNat_eq_one]

/-! ## From any state (41_frame_assembler.md R130) -/

theorem setInputs_classify (s : State) (ws : List StepWords) (n : Tick) :
    (s.setInputs ws).classify n = s.classify n := rfl

theorem stepWith_lineInterval_classify (s : State) (n m : Tick) :
    (s.stepWith (lineInterval n)).classify m = s.classify m := by
  obtain ⟨hmin, hmax, zmin, zmax⟩ := interval_host_fields ((s.setInputs []).setEvents []) n
  rw [stepWith_lineInterval, classify_eq_of_windows, classify_eq_of_windows s]
  simp only [State.setRdata_oneMin, State.setRdata_oneMax, State.setRdata_zeroMin, State.setRdata_zeroMax, hmin, hmax,
    zmin, zmax, State.setEvents_oneMin, State.setEvents_oneMax, State.setEvents_zeroMin, State.setEvents_zeroMax,
    State.setInputs_oneMin, State.setInputs_oneMax, State.setInputs_zeroMin, State.setInputs_zeroMax]

/-- No signal changes the windows, aligned or not. -/
theorem feed_pseudoBits_classify (s : State) (half full : Tick) (bits : List Bool) (m : Tick) :
    (s.feed (pseudoBits half full bits)).classify m = s.classify m := by
  induction bits generalizing s with
  | nil => rfl
  | cons b bs ih =>
    rw [pseudoBits_cons, feed_append, ih]
    cases b with
    | false =>
      have hline : pseudoBit half full false = [lineInterval full] := rfl
      rw [hline, feed_singleton, setInputs_classify, stepWith_lineInterval_classify]
    | true =>
      have hline : pseudoBit half full true = [lineInterval half, lineInterval half] := rfl
      rw [hline, feed_cons, feed_singleton, setInputs_classify, stepWith_lineInterval_classify,
        stepWith_lineInterval_classify]

theorem feed_pseudoBits_calibrated {s : State} {half full : Tick} (hc : s.Calibrated half full) (bits : List Bool) :
    (s.feed (pseudoBits half full bits)).Calibrated half full :=
  ⟨(feed_pseudoBits_classify s half full bits half).trans hc.1, (feed_pseudoBits_classify s half full bits full).trans hc.2⟩

/-- After a frame of any content the decoder is anchored, with the 1-bit of the sync word carried in. -/
theorem feed_frame_anchors {s : State} {half full : Tick} (hc : s.Calibrated half full) (v : BitVec 64) :
    let t := s.feed (pseudoBits half full (frameBitsOf v))
    t.pos = 0 ∧ t.pending = false ∧ t.ones = 1 ∧ t.Calibrated half full := by
  have hcal := feed_pseudoBits_calibrated hc (frameBitsOf v)
  have hanchors := anchorsOn_syncWord (feed_pseudoBits_calibrated hc (dataBits v))
  unfold State.AnchorsOn at hanchors
  have hframe : dataBits v ++ syncWord = frameBitsOf v := rfl
  rw [← feed_append, ← feed_append, ← pseudoBits_append, ← pseudoBits_append, hframe] at hanchors
  obtain ⟨-, -, -, hpos, hpending, -, hones⟩ := hanchors
  exact ⟨hpos, hpending, hones, hcal⟩

/-- The frame of a valid timecode brings no sync run before its sync word ends. -/
theorem frameValue_noSyncRun {hh mm ss ff : Nat} (df : Bool) (hhh : hh < 24) (hmm : mm < 60) (hss : ss < 60)
    (hff : ff < 30) : noSyncRun 1 ((frameBitsOf (frameValue hh mm ss ff df)).take 77) = true := by
  obtain ⟨h1, h2, h3, h4, h5, h6, h7, h8, -⟩ := frameValue_digits df hhh hmm hss hff
  have hdata : noSyncRun 1 (dataBits (frameValue hh mm ss ff df)) = true := by
    apply validDigitsHoldNoFalseSync <;> omega
  rw [frameBitsOf_take_77, bitsBeforeSync, noSyncRun_append_false, noSyncRun_append_false, hdata]
  rfl

/-- Settles O46: the first frame anchors the decoder, and the second is then published exactly. -/
theorem validTimecodeDecodesFromAnyState : Obligations.ValidTimecodeDecodesFromAnyState := by
  intro s half full v hh mm ss ff df hc hhh hmm hss hff
  obtain ⟨hpos, hpending, hones, hcal⟩ := feed_frame_anchors hc v
  have hrun := frameValue_noSyncRun df hhh hmm hss hff
  have hdigits := frameValue_digits df hhh hmm hss hff
  have hflag := frameValue_getLsbD_10 df hhh hmm hss hff
  rw [pseudoFrame, feed_append]
  generalize s.feed (pseudoBits half full (frameBitsOf v)) = u at hpos hpending hones hcal ⊢
  generalize frameValue hh mm ss ff df = w at hrun hdigits hflag ⊢
  have hstart : u.ones.toNat = 1 := congrArg BitVec.toNat hones
  obtain ⟨hevents, hready, -, hdf, htext, -⟩ :=
    anchoredFrameIsPublishedExactly u half full w hcal hpending hpos (hstart ▸ hrun)
  obtain ⟨h1, h2, h3, h4, h5, h6, h7, h8, -⟩ := hdigits
  rw [h1, h2, h3, h4, h5, h6, h7, h8, hflag] at htext
  exact ⟨hevents, hready, hdf.trans hflag, htext⟩

/-! ## The distance between two publishes (70_reset_and_hazards.md R227) -/

/-- With this many INTERVALs still to come at most, none of them publishes: a publish needs `pos` = 79, `pos`
jumps there through 78 only, and a sync detection needs a pair of half-cells. -/
def State.FarFromPublish (s : State) : Nat → Prop
  | 0 => True
  | 1 => s.pos.toNat ≠ 79
  | 2 => s.pos.toNat ≤ 1
  | _ => s.pos.toNat = 0 ∧ s.pending = false

theorem pos_ne_79_of_farFromPublish {k : Nat} {s : State} (h : s.FarFromPublish (k + 1)) : s.pos.toNat ≠ 79 := by
  match k with
  | 0 => exact h
  | 1 => exact fun hp => by have : s.pos.toNat ≤ 1 := h; omega
  | k + 2 => exact fun hp => by have : s.pos.toNat = 0 := h.1; omega

/-- Where `pos` can stand after a bit; only a 1 detects sync. -/
theorem pushBit_pos_cases (s : State) (b : Bool) :
    (b = true ∧ (s.pushBit b).pos.toNat = 78) ∨ (s.pushBit b).pos.toNat = 0 ∨
      (s.pushBit b).pos.toNat = s.pos.toNat + 1 := by
  obtain ⟨⟨hb, -⟩, e⟩ | ⟨-, hp, e⟩ | ⟨-, -, -, e⟩ | ⟨-, -, -, e⟩ := pushBit_cases s b <;> rw [e]
  · exact .inl ⟨hb, rfl⟩
  · by_cases hwrap : s.pos.toNat = 127
    · exact .inr (.inl (by show (s.pos + 1).toNat = 0; bv_omega))
    · exact .inr (.inr (by show (s.pos + 1).toNat = s.pos.toNat + 1; bv_omega))
  · exact .inr (.inl rfl)
  · exact .inr (.inl rfl)

/-- Where `pos` can stand after an INTERVAL; a sync detection needs a half-bit pending. -/
theorem interval_pos_cases (s : State) (n : Tick) :
    (s.pending = true ∧ (s.interval n).pos.toNat = 78) ∨ (s.interval n).pos.toNat = s.pos.toNat ∨
      (s.interval n).pos.toNat = 0 ∨ (s.interval n).pos.toNat = s.pos.toNat + 1 := by
  obtain ⟨-, -, e⟩ | ⟨-, hp, e⟩ | ⟨-, -, e⟩ | ⟨-, -, e⟩ | ⟨-, e⟩ := interval_cases s n <;> rw [e]
  · exact .inr (.inl rfl)
  · obtain ⟨-, h⟩ | h := pushBit_pos_cases
      { s with edgeSel := !s.edgeSel, capRestart := true, pending := false } true
    · exact .inl ⟨hp, h⟩
    · exact .inr (.inr h)
  · obtain ⟨hb, -⟩ | h := pushBit_pos_cases { s with edgeSel := !s.edgeSel, capRestart := true } false
    · exact absurd hb Bool.false_ne_true
    · exact .inr (.inr h)
  · exact .inr (.inr (.inl rfl))
  · exact .inr (.inr (.inl rfl))

theorem interval_farFromPublish {k : Nat} {s : State} (h : s.FarFromPublish (k + 1)) (hk : k ≤ 2) (n : Tick) :
    (s.interval n).FarFromPublish k := by
  have hpos := interval_pos_cases s n
  match k with
  | 0 => trivial
  | 1 =>
    have hle : s.pos.toNat ≤ 1 := h
    show (s.interval n).pos.toNat ≠ 79
    omega
  | 2 =>
    obtain ⟨hzero, hpending⟩ : s.pos.toNat = 0 ∧ s.pending = false := h
    show (s.interval n).pos.toNat ≤ 1
    rw [hpending] at hpos
    simp only [Bool.false_eq_true, false_and, false_or] at hpos
    omega

theorem farFromPublish_of_fields {k : Nat} {s t : State} (h : s.FarFromPublish k) (hpos : t.pos = s.pos)
    (hpending : t.pending = s.pending) : t.FarFromPublish k := by
  unfold State.FarFromPublish at h ⊢
  rw [hpos, hpending]
  exact h

theorem stepWith_events (s : State) {w : StepWords} (hw : w.rst = 0) :
    (s.stepWith w).events = s.recorded (decodeCap w.cap) :=
  have hdec : decodeStep (s.setInputs [w]).nextWords = .ports (decodeCap w.cap) (decodeHost w.host) :=
    decodeStep_of_rst_zero hw
  (congrArg State.events (stepNext_cons s w [])).symm.trans (stepNext_events_of_ports hdec)

/-- A step spends its INTERVAL, if it has one, and does not publish. -/
theorem stepWith_farFromPublish {k : Nat} {s : State} {w : StepWords} (hw : w.rst = 0) (hk : k ≤ 3)
    (hspend : (w.cap.getLsbD 31).toNat ≤ k) (h : s.FarFromPublish k) :
    Event.publish ∉ (s.stepWith w).events ∧ (s.stepWith w).FarFromPublish (k - (w.cap.getLsbD 31).toNat) := by
  rw [stepWith_events s hw, stepWith_of_rst_zero s hw]
  by_cases hvalid : w.cap.getLsbD 31 = true
  · rw [decodeCap_of_valid hvalid]
    rw [hvalid] at hspend ⊢
    obtain ⟨k, rfl⟩ : ∃ j, k = j + 1 := Nat.exists_eq_add_one.mpr hspend
    refine ⟨fun hpub => ?_, ?_⟩
    · obtain ⟨⟨-, -, h79⟩, -⟩ := (publish_mem_intervalEvents s _).mp hpub
      exact pos_ne_79_of_farFromPublish h h79
    · have hstart : (((s.setInputs []).setEvents []).setFrameReady false).FarFromPublish (k + 1) :=
        farFromPublish_of_fields h rfl rfl
      exact farFromPublish_of_fields (interval_farFromPublish hstart (by omega) (w.cap.extractLsb' 0 16)) rfl rfl
  · rw [decodeCap_of_not_valid hvalid, Bool.eq_false_iff.mpr hvalid]
    exact ⟨List.not_mem_nil, farFromPublish_of_fields h rfl rfl⟩

/-- So a run with no more INTERVALs than that does not publish in its last step. -/
theorem publish_not_mem_feed_events {k : Nat} {s : State} {ws : List StepWords} (hk : k ≤ 3) (h : s.FarFromPublish k)
    (hne : ws ≠ []) (hrst : ∀ w ∈ ws, w.rst = 0) (hcount : (ws.filter fun w => w.cap.getLsbD 31).length ≤ k) :
    Event.publish ∉ (s.feed ws).events := by
  induction ws generalizing k s with
  | nil => exact absurd rfl hne
  | cons w ws ih =>
    obtain ⟨hw, hrest⟩ := List.forall_mem_cons.mp hrst
    have hlen : (w.cap.getLsbD 31).toNat + (ws.filter fun w => w.cap.getLsbD 31).length ≤ k := by
      rw [List.filter_cons] at hcount
      cases hvalid : w.cap.getLsbD 31 with
      | false =>
        rw [if_neg (Bool.eq_false_iff.mp hvalid)] at hcount
        exact (Nat.zero_add _).trans_le hcount
      | true =>
        rw [if_pos hvalid, List.length_cons] at hcount
        exact (Nat.add_comm _ _).trans_le hcount
    obtain ⟨hlast, hnext⟩ := stepWith_farFromPublish hw hk (by omega) h
    by_cases hws : ws = []
    · subst hws
      rw [feed_singleton]
      exact hlast
    · rw [feed_cons]
      exact ih (by omega) hnext hws hrest (by omega)

/-- Settles O48: three INTERVALs cannot bring `pos` from 0 to a publish, and four can from the end of a sync run. -/
theorem publishesAreFourIntervalsApart : Obligations.PublishesAreFourIntervalsApart := by
  refine ⟨fun s ws hpos hpending hne hrst hcount => ?three, fun s half full hc hpos hpending hones => ?four⟩
  case three =>
    have hfar : s.FarFromPublish 3 := ⟨congrArg BitVec.toNat hpos, hpending⟩
    exact publish_not_mem_feed_events le_rfl hfar hne hrst hcount
  case four =>
    have h11 : (s.pushBits []).ones.toNat = 11 := congrArg BitVec.toNat hones
    obtain ⟨e, hfeed⟩ := feed_of_sync_and_two hc hpending h11 false
    rw [List.nil_append] at hfeed
    rw [hfeed]
    exact List.mem_singleton.mpr rfl

end Sys2Proof.Machine
end
